-- ==== Sys2Proof/Word.lean ====
section
/-! DEFINITION. The widths of the block: bytes, nibbles, segment codes, attribute masks, the frame
(spec/00_scope.md rule R6; 10_state.md rules R10, R11). -/

namespace Sys2Proof

/-- One input byte, `BYTE_W` = 8 bits (30_encoding R38). -/
abbrev Byte := BitVec 8

/-- A tag or a data nibble, `TAG_W` = `DATA_W` = 4 bits (30_encoding R38). -/
abbrev Nibble := BitVec 4

/-- The segment code of one digit, `SEG_W` = 7 bits (41_digit_decoder R86). -/
abbrev SegCode := BitVec 7

/-- The attribute lanes, `N_ATTR` = 24 bits, lane `n` at bit `n` (42_attribute_mapper R106). -/
abbrev AttrMask := BitVec 24

/-- The frame register file: `FRAME_SLOTS` = 14 slots of 4 bits (10_state R11). -/
abbrev Frame := Vector Nibble 14

/-- The frame of the state `CLEAN`: every slot 0 (10_state R13). -/
def Frame.zero : Frame := Vector.replicate 14 0#4

end Sys2Proof
end

