-- ==== Sys2Proof/Config.lean ====
section
/-! DEFINITION. The parameters of the block that a model takes as arguments, and those it takes as
constants (spec/00_scope.md rule R6; log entry 18). The default contents of the DigitTable stand in
Sys2Proof/Machine/Tables.lean. -/

namespace Sys2Proof

/-- The 12 symbols a DigitTable entry may map to (20_memory R23). INVALID is not among them:
it is "only the result of a miss" (41_digit_decoder R100 (d)). -/
inductive Glyph where
  /-- The digit `n`, 0 to 9. -/
  | digit (n : Fin 10)
  /-- OVERFLOW, shown as "L". -/
  | overflow
  /-- BLANK, nothing lit. -/
  | blank
  deriving DecidableEq, Repr

/-- A DigitTable: a partial map from 7-bit codes to glyphs as a list of entries
(20_memory R23, 41_digit_decoder R100). An admissible one rises strictly in the code, so that
equal maps are equal lists (`Sys2Proof.Machine.lutAdmissible`; log entry 19). -/
abbrev DigitLut := List (SegCode × Glyph)

/-- The two parameters that can change a trace (00_scope R6, INDEX "How to read it"). -/
structure Config where
  /-- `DIGIT_LUT`, decision D9 (41_digit_decoder R100). -/
  digitLut : DigitLut
  /-- `TERM16_COMPLETES`, decision D6 (40_frame_assembler R58). -/
  term16Completes : Bool
  deriving DecidableEq, Repr

/-- The names of the 24 attribute lanes (42_attribute_mapper R109), in lane order. Labels only: the
block's output is the mask (decisions D10, D11; log entry 11). -/
inductive AttrName where
  | unknown11 | auto | dc | ac | diode | kilo | nano | micro
  | beep | mega | percent | milli | hold | relDelta | ohms | farads
  | unknownD1 | hertz | volts | amps | unknownE1 | unknownE2 | degreesC | unknownE8
  deriving DecidableEq, Repr

/-- `TERMINAL_TAG`: the tag that ends a framing attempt (00_scope R6). -/
def Config.terminalTag : Nibble := 14#4

/-- `MIN_COUNT`: the least number of accepted bytes for a complete frame (00_scope R6; log entry 16). -/
def Config.minCount : BitVec 5 := 13#5

/-- `MAX_BYTES`: more than this many accepted bytes without the terminal tag is an error
(00_scope R6; log entry 16). -/
def Config.maxBytes : BitVec 5 := 15#5

end Sys2Proof
end

