-- ==== Sys2Proof/Machine/Tables.lean ====
section
/-! DEFINITION. The two constant tables: the default contents of the DigitTable and what makes a table
admissible (spec/41_digit_decoder.md rules R88 to R100), and the AttributeTable: slot, bit, label and
name of each lane (spec/42_attribute_mapper.md rules R106, R108 to R133). -/

namespace Sys2Proof.Machine

/-- The default `DIGIT_LUT`, rising in the code (41_digit_decoder R100). The entries of 0x05, 0x15,
0x27 and 0x7D are the source's (R88, R89, R92, R95); the other eight are PRESUMED, the spec's general
knowledge (R90, R91, R93, R94, R96 to R99; log entry 4). -/
def defaultLut : DigitLut :=
  [(0x00#7, .blank), (0x05#7, .digit 1), (0x15#7, .digit 7), (0x1F#7, .digit 3),
   (0x27#7, .digit 4), (0x3E#7, .digit 5), (0x3F#7, .digit 9), (0x5B#7, .digit 2),
   (0x68#7, .overflow), (0x7D#7, .digit 0), (0x7E#7, .digit 6), (0x7F#7, .digit 8)]

/-- The parameters as 00_scope R6 gives them. -/
def defaultConfig : Config := { digitLut := defaultLut, term16Completes := true }

/-- The 12 glyphs (20_memory R23). -/
def allGlyphs : List Glyph :=
  (List.ofFn fun n : Fin 10 => Glyph.digit n) ++ [.overflow, .blank]

/-- What every `DIGIT_LUT` satisfies (41_digit_decoder R100): the list is in canonical form (codes
strictly rising), (a) has 12 entries, (b) maps onto the 12 glyphs with one code each, and (c) holds
the four entries the source fixes. (d) holds by the type `Glyph`. -/
abbrev lutAdmissible (lut : DigitLut) : Prop :=
  (lut.map Prod.fst).Pairwise (· < ·) ∧ lut.length = 12 ∧ (lut.map Prod.snd).Nodup ∧
    (∀ g ∈ allGlyphs, g ∈ lut.map Prod.snd) ∧
    (0x7D#7, Glyph.digit 0) ∈ lut ∧ (0x05#7, Glyph.digit 1) ∈ lut ∧
    (0x27#7, Glyph.digit 4) ∈ lut ∧ (0x15#7, Glyph.digit 7) ∈ lut

/-- `idx(n)`, the slot lane `n` is copied from: 0, 9, 10, 11, 12 or 13 (42_attribute_mapper R106). -/
def laneSlot (n : Fin 24) : Fin 14 :=
  if h : n.val < 4 then 0 else ⟨n.val / 4 + 8, by omega⟩

/-- The bit of its slot that lane `n` copies: `n mod 4` (42_attribute_mapper R106). -/
def laneBit (n : Fin 24) : Nat := n.val % 4

/-- The label of lane `n`: the byte with the lane's tag and only the lane's data bit set
(42_attribute_mapper R108). -/
def laneLabel (n : Fin 24) : Byte :=
  BitVec.ofNat 4 ((laneSlot n).val + 1) ++ BitVec.twoPow 4 (laneBit n)

/-- The mask with exactly lane `n` (95_test_vectors, T-A). -/
def laneMask (n : Fin 24) : AttrMask := BitVec.twoPow 24 n.val

/-- The AttributeTable: the names of lanes 0 to 23 (42_attribute_mapper R109 to R133). DESIGN CHOICE
of the spec (decisions D10, D11) but for lanes 5, 14 and 23 (log entry 11). -/
def laneNames : Vector AttrName 24 :=
  #v[.unknown11, .auto, .dc, .ac,
     .diode, .kilo, .nano, .micro,
     .beep, .mega, .percent, .milli,
     .hold, .relDelta, .ohms, .farads,
     .unknownD1, .hertz, .volts, .amps,
     .unknownE1, .unknownE2, .degreesC, .unknownE8]

/-- The name of lane `n`. -/
def laneName (n : Fin 24) : AttrName := laneNames[n]

/-- The lane of a name, the other way round. -/
def laneOf (a : AttrName) : Fin 24 :=
  match a with
  | .unknown11 => 0
  | .auto => 1
  | .dc => 2
  | .ac => 3
  | .diode => 4
  | .kilo => 5
  | .nano => 6
  | .micro => 7
  | .beep => 8
  | .mega => 9
  | .percent => 10
  | .milli => 11
  | .hold => 12
  | .relDelta => 13
  | .ohms => 14
  | .farads => 15
  | .unknownD1 => 16
  | .hertz => 17
  | .volts => 18
  | .amps => 19
  | .unknownE1 => 20
  | .unknownE2 => 21
  | .degreesC => 22
  | .unknownE8 => 23

/-- The set of named attributes a mask stands for, in lane order (42_attribute_mapper R134). -/
def namesOf (m : AttrMask) : List AttrName :=
  ((List.finRange 24).filter fun n => m.getLsbD n.val).map laneName

end Sys2Proof.Machine
end

