-- ==== Sys2Proof/Machine/State.lean ====
section
/-! DEFINITION. The state, the events and Readings a step may emit, what the environment presents, reset, and
the (empty) set of reasons to stop (spec/10_state.md, 43_reading_assembly.md, 60_exceptions.md). -/

namespace Sys2Proof.Machine

/-- A display symbol: one of 0 to 9, OVERFLOW, BLANK, INVALID (43_reading_assembly R139). -/
inductive Symbol where
  /-- The symbol of a DigitTable entry. -/
  | glyph (g : Glyph)
  /-- INVALID: the code matched no entry (41_digit_decoder R87). -/
  | invalid
  deriving DecidableEq, Repr

/-- The Reading of one complete frame (43_reading_assembly R138, R139). Digit `k` and gap `g` of the
spec, counted from 1, stand at index `k - 1` and `g - 1` (log entry 17). -/
structure Reading where
  /-- `sym[1..4]`, leftmost digit first. -/
  sym : Vector Symbol 4
  /-- `seg[1..4]`, the observed segment codes. -/
  seg : Vector SegCode 4
  /-- `inv[1..4]`, which digits are INVALID (R140). -/
  inv : Vector Bool 4
  /-- `any_invalid`, the OR of `inv`. -/
  anyInvalid : Bool
  /-- `sign`, true is negative. -/
  sign : Bool
  /-- `dp[1..3]`, one bit per gap, not coalesced. -/
  dp : Vector Bool 3
  /-- `attr[23:0]`, lane `n` at bit `n`. -/
  attr : AttrMask
  deriving DecidableEq, Repr

/-- The reasons of a framing error (60_exceptions R144). -/
inductive FramingReason where
  | invalidTag | shortFrame | frameTooLong
  deriving DecidableEq, Repr

/-- The closed set of events (60_exceptions R144); only `CompleteFrame` carries a payload (R144,
43_reading_assembly R143). -/
inductive Event where
  /-- `CompleteFrame`, with the frame and its Reading. -/
  | completeFrame (frame : Frame) (reading : Reading)
  /-- `PowerOn`. -/
  | powerOn
  /-- `FramingError(reason)`. -/
  | framingError (reason : FramingReason)
  deriving DecidableEq, Repr

/-- What one step presents on the outputs, held for the reader of the model only (10_state R9 (c);
log entries 2, 6, 7). -/
inductive Output where
  /-- No event in this step: `ev_code = 0`. -/
  | idle
  /-- The event of this step. -/
  | event (e : Event)
  /-- The DigitTable alone: the symbol it gives a code, and which digits of the frame presented to
  it show that code. -/
  | digitEntry (code : SegCode) (sym : Symbol) (hits : Vector Bool 4)
  /-- The AttributeTable alone: the lanes selected, and their values in the frame presented to it. -/
  | lanes (mask value : AttrMask)
  deriving DecidableEq, Repr

/-- What the environment presents for one step. -/
inductive Input where
  /-- One clock cycle: the ports `rst`, `in_valid` and `in_byte` (43_reading_assembly R143). -/
  | cycle (rst inValid : Bool) (inByte : Byte)
  /-- A segment code presented to the DigitTable alone, with the frame to look for it in (log
  entries 6, 20). -/
  | segCode (c : SegCode) (f : Frame)
  /-- A selection of lanes presented to the AttributeTable alone, with the frame to take them from
  (log entries 7, 20). -/
  | attrMask (m : AttrMask) (f : Frame)
  deriving DecidableEq, Repr

/-- The machine. `cnt` and `frame` are the whole architectural state of the block (10_state R8);
`cfg` holds its parameters, which no step changes; the last five fields are the model's own and
stand for the environment. -/
structure State where
  /-- Bytes accepted so far in the framing attempt, 0 to 15 (10_state R10). -/
  cnt : BitVec 4
  /-- The 14 frame slots (10_state R11, R12). -/
  frame : Frame
  /-- The parameters `DIGIT_LUT` and `TERM16_COMPLETES` (00_scope R6; log entry 3). -/
  cfg : Config
  /-- What the environment will present, earliest first (43_reading_assembly R135; log entry 1). -/
  input : List Input
  /-- The frame the environment presents to the two tables read alone: their operand in place of
  the slots, which only the step of a `CompleteFrame` reads (10_state R11; log entry 20). -/
  tableFrame : Frame
  /-- How many bytes steps have been taken with: the index of a byte in the run
  (43_reading_assembly R137; log entry 2). -/
  taken : Nat
  /-- What the latest step presents (43_reading_assembly R143; log entry 2). -/
  out : Output
  /-- The events emitted so far, in order, each with the index of the byte that caused it
  (43_reading_assembly R137; log entry 2). -/
  trace : List (Nat × Event)
  deriving DecidableEq, Repr

/-- Reasons to stop with a fault: NONE. No input makes the block fault (93_implementation_defined,
after Part 1: "A model therefore needs no fault and no stuck outcome for this block"; log entry 13).
No meaning and no step raises one, so the choice is safe. -/
inductive Fault where
  deriving DecidableEq, Repr

/-- Reasons to refuse an instruction. -/
inductive Refusal where
  /-- An instruction without a meaning, by its mnemonic. No arm of `exec` raises it: every row has
  its meaning. Safe: it could only stop the model. -/
  | notModelled (mnemonic : String)
  deriving DecidableEq, Repr

/-- The machine after reset: `CLEAN`, no event on the outputs (10_state R19, 70_reset R159), the
parameters of 00_scope R6, and nothing presented by the environment yet (log entries 1, 15). -/
def State.reset : State :=
  { cnt := 0#4, frame := Frame.zero, cfg := defaultConfig, input := [], tableFrame := Frame.zero,
    taken := 0, out := .idle, trace := [] }

end Sys2Proof.Machine
end

