-- ==== Sys2Proof/Machine/Operands.lean ====
section
/-! DEFINITION. Operand assembly: the digit pairs, the segment code, the DigitTable look-up
(spec/41_digit_decoder.md rules R85 to R87). -/

namespace Sys2Proof.Machine

/-- `byte1` of digit `k + 1`: slot 1, 3, 5 or 7 (41_digit_decoder R85). -/
def pairHigh (f : Frame) (k : Fin 4) : Nibble := f[2 * k.val + 1]

/-- `byte2` of digit `k + 1`: slot 2, 4, 6 or 8 (41_digit_decoder R85). -/
def pairLow (f : Frame) (k : Fin 4) : Nibble := f[2 * k.val + 2]

/-- `byte1[2:0] ++ byte2[3:0]` (41_digit_decoder R86). -/
def segCodeOf (byte1 byte2 : Nibble) : SegCode := byte1.extractLsb' 0 3 ++ byte2

/-- `seg[k + 1]` of a frame (41_digit_decoder R85, R86). -/
def segOf (f : Frame) (k : Fin 4) : SegCode := segCodeOf (pairHigh f k) (pairLow f k)

/-- `MemRead(DIGIT_LUT, code)`: the entry's symbol, or INVALID on a miss (41_digit_decoder R87). -/
def lookUp (lut : DigitLut) (code : SegCode) : Symbol :=
  match lut.find? (fun e => e.1 == code) with
  | some e => .glyph e.2
  | none => .invalid

/-- The operation `decode_digit` on one digit pair (41_digit_decoder R86, R87). -/
def decodeDigit (lut : DigitLut) (byte1 byte2 : Nibble) : Symbol :=
  lookUp lut (segCodeOf byte1 byte2)

/-- `sym[k + 1]` of a frame (41_digit_decoder R85 to R87). -/
def symOf (lut : DigitLut) (f : Frame) (k : Fin 4) : Symbol :=
  decodeDigit lut (pairHigh f k) (pairLow f k)

/-- Which digits of a frame show a code. -/
def digitsShowing (f : Frame) (code : SegCode) : Vector Bool 4 :=
  Vector.ofFn fun k => segOf f k == code

end Sys2Proof.Machine
end

