-- ==== Sys2Proof/Machine/Flags.lean ====
section
/-! DEFINITION. The Boolean results of a decode. The block stores none of them: they are outputs
(spec/10_state.md rule R15; 41_digit_decoder.md R87, R101 to R103; 42_attribute_mapper.md R106). -/

namespace Sys2Proof.Machine

/-- `sign = frame[1][3]`, true is negative (41_digit_decoder R101). -/
def signOf (f : Frame) : Bool := f[1].getLsbD 3

/-- `dp[g + 1] = frame[2(g + 1) + 1][3]`: the point in the gap between digit `g + 1` and digit
`g + 2` (41_digit_decoder R102; 90_conflicts C1). -/
def dpOf (f : Frame) (g : Fin 3) : Bool := f[2 * g.val + 3].getLsbD 3

/-- `inv[k + 1]`: digit `k + 1` is INVALID (41_digit_decoder R87). -/
def invOf (lut : DigitLut) (f : Frame) (k : Fin 4) : Bool := symOf lut f k == .invalid

/-- `any_invalid`, the OR of the four marks (43_reading_assembly R138). -/
def anyInvalidOf (lut : DigitLut) (f : Frame) : Bool :=
  invOf lut f 0 || invOf lut f 1 || invOf lut f 2 || invOf lut f 3

/-- The 24 logical bits as one expression: `frame[0]` in bits 3:0, then slots 9 to 13
(42_attribute_mapper R106). -/
def attrOf (f : Frame) : AttrMask := f[13] ++ f[12] ++ f[11] ++ f[10] ++ f[9] ++ f[0]

end Sys2Proof.Machine
end

