-- ==== Sys2Proof/Machine/Decoder.lean ====
section
/-! DEFINITION. The Decoder: a complete frame to its Reading (spec/43_reading_assembly.md rules R138 to R142). -/

namespace Sys2Proof.Machine

/-- `decode(frame)`, a pure function of the frame and the DigitTable (43_reading_assembly R138,
R141). -/
def readingOf (lut : DigitLut) (f : Frame) : Reading :=
  { sym := Vector.ofFn (symOf lut f)
    seg := Vector.ofFn (segOf f)
    inv := Vector.ofFn (invOf lut f)
    anyInvalid := anyInvalidOf lut f
    sign := signOf f
    dp := Vector.ofFn (dpOf f)
    attr := attrOf f }

/-- The attributes of a Reading as a set of names (43_reading_assembly R139, 42_attribute_mapper
R134). -/
def Reading.attributes (r : Reading) : List AttrName := namesOf r.attr

end Sys2Proof.Machine
end

