-- ==== Sys2Proof/Machine/Ops.lean ====
section
/-! DEFINITION. The shared operations over the state: clearing, emitting an event, storing a slot, counting, the
two ways an accepted byte ends, and the two tables read alone (spec/40_frame_assembler.md rules R49 to R58, R72;
60_exceptions.md rules R154 to R156). -/

namespace Sys2Proof.Machine

/-- The state `CLEAN`: `cnt = 0` and every slot 0; whatever is not the block's own state stays
(10_state R13). It is also all there is of a return from an event: the next byte starts a new
attempt from here (60_exceptions R156). -/
def State.clean (s : State) : State := { s with cnt := 0#4, frame := Frame.zero }

/-- `raise` and `emit` (00_scope, pseudocode primitives): deliver the event with the index of its byte, set the
state to `CLEAN`, end the step. Nothing is saved (60_exceptions R154, 43_reading_assembly R136). -/
def raiseEvent (e : Event) (s : State) : State :=
  { s.clean with out := .event e, trace := s.trace ++ [(s.taken, e)] }

/-- `frame[i] <- d` (20_memory R22, R31; 40_frame_assembler R54). -/
def storeSlot (i : Fin 14) (d : Nibble) (s : State) : State :=
  { s with frame := s.frame.set i.val d i.isLt }

/-- `c <- zext_5(cnt) + 1`, 1 to 16 (40_frame_assembler R57). -/
def nextCount (s : State) : BitVec 5 := s.cnt.setWidth 5 + 1#5

/-- `cnt <- c[3:0]`, no event (40_frame_assembler R49 line 14). -/
def keepCount (c : BitVec 5) (s : State) : State := { s with cnt := c.setWidth 4, out := .idle }

/-- An accepted byte that is not terminal: store, count, and `frame_too_long` when more than 15
bytes were accepted (40_frame_assembler R49 lines 6, 7, 11 to 14; R54, R57, R58). -/
def acceptByte (i : Fin 14) (d : Nibble) (s : State) : State :=
  if nextCount s > Config.maxBytes then raiseEvent (.framingError .frameTooLong) (storeSlot i d s)
  else keepCount (nextCount s) (storeSlot i d s)

/-- `CompleteFrame` of the frame as it stands, with its Reading (40_frame_assembler R74,
43_reading_assembly R138). -/
def completeEvent (s : State) : Event := .completeFrame s.frame (readingOf s.cfg.digitLut s.frame)

/-- The terminal byte: store in slot 13, count, end the attempt (40_frame_assembler R49 lines 6 to
10; R72 to R74). As the 16th accepted byte it completes the frame when `TERM16_COMPLETES`, else it
is too long (R58, 00_scope R6; log entry 5). -/
def acceptTerminal (d : Nibble) (s : State) : State :=
  let s' := storeSlot 13 d s
  if nextCount s < Config.minCount then raiseEvent (.framingError .shortFrame) s'
  else if nextCount s > Config.maxBytes && !s.cfg.term16Completes then
    raiseEvent (.framingError .frameTooLong) s'
  else raiseEvent (completeEvent s') s'

/-- The DigitTable read alone at a code: its symbol, and the digits of the presented frame that show
the code (41_digit_decoder R87; log entry 6). Reads no slot (10_state R11) and writes no state of the
block (41_digit_decoder, opening). -/
def presentEntry (code : SegCode) (s : State) : State :=
  { s with out := .digitEntry code (lookUp s.cfg.digitLut code) (digitsShowing s.tableFrame code) }

/-- The lanes of a mask read alone: the selected bits of `attr` of the presented frame
(42_attribute_mapper R106; log entry 7). Reads no slot (10_state R11) and writes no state of the
block (42_attribute_mapper, opening). -/
def presentLanes (mask : AttrMask) (s : State) : State :=
  { s with out := .lanes mask (attrOf s.tableFrame &&& mask) }

end Sys2Proof.Machine
end

