-- ==== Sys2Proof/Machine/AttributeTable.lean ====
section
/-! DEFINITION. The meanings of the 24 attribute lanes: each presents its one bit of the frame
presented to the AttributeTable (spec/42_attribute_mapper.md rules R106, R110 to R133; log entries 7, 20). -/

namespace Sys2Proof.Machine

/-- Lane 0, `unknown_11`: `attr[0] = frame[0][0]` (R110). Reserved, copied like any other. -/
def execUnknown11 (s : State) : Host.Outcome State Fault Refusal :=
  .next (presentLanes 0x000001#24 s)

/-- Lane 1, `AUTO`: `attr[1] = frame[0][1]` (R111). -/
def execAuto (s : State) : Host.Outcome State Fault Refusal :=
  .next (presentLanes 0x000002#24 s)

/-- Lane 2, `DC`: `attr[2] = frame[0][2]` (R112). -/
def execDc (s : State) : Host.Outcome State Fault Refusal :=
  .next (presentLanes 0x000004#24 s)

/-- Lane 3, `AC`: `attr[3] = frame[0][3]` (R113). -/
def execAc (s : State) : Host.Outcome State Fault Refusal :=
  .next (presentLanes 0x000008#24 s)

/-- Lane 4, `DIODE`: `attr[4] = frame[9][0]` (R114). -/
def execDiode (s : State) : Host.Outcome State Fault Refusal :=
  .next (presentLanes 0x000010#24 s)

/-- Lane 5, `kilo`: `attr[5] = frame[9][1]` (R115). -/
def execKilo (s : State) : Host.Outcome State Fault Refusal :=
  .next (presentLanes 0x000020#24 s)

/-- Lane 6, `nano`: `attr[6] = frame[9][2]` (R116). -/
def execNano (s : State) : Host.Outcome State Fault Refusal :=
  .next (presentLanes 0x000040#24 s)

/-- Lane 7, `micro`: `attr[7] = frame[9][3]` (R117). -/
def execMicro (s : State) : Host.Outcome State Fault Refusal :=
  .next (presentLanes 0x000080#24 s)

/-- Lane 8, `beep`: `attr[8] = frame[10][0]` (R118). -/
def execBeep (s : State) : Host.Outcome State Fault Refusal :=
  .next (presentLanes 0x000100#24 s)

/-- Lane 9, `mega`: `attr[9] = frame[10][1]` (R119). -/
def execMega (s : State) : Host.Outcome State Fault Refusal :=
  .next (presentLanes 0x000200#24 s)

/-- Lane 10, `percent`: `attr[10] = frame[10][2]` (R120). -/
def execPercent (s : State) : Host.Outcome State Fault Refusal :=
  .next (presentLanes 0x000400#24 s)

/-- Lane 11, `milli`: `attr[11] = frame[10][3]` (R121). -/
def execMilli (s : State) : Host.Outcome State Fault Refusal :=
  .next (presentLanes 0x000800#24 s)

/-- Lane 12, `hold`: `attr[12] = frame[11][0]` (R122). -/
def execHold (s : State) : Host.Outcome State Fault Refusal :=
  .next (presentLanes 0x001000#24 s)

/-- Lane 13, `rel_delta`: `attr[13] = frame[11][1]` (R123). -/
def execRelDelta (s : State) : Host.Outcome State Fault Refusal :=
  .next (presentLanes 0x002000#24 s)

/-- Lane 14, `ohms`: `attr[14] = frame[11][2]` (R124). -/
def execOhms (s : State) : Host.Outcome State Fault Refusal :=
  .next (presentLanes 0x004000#24 s)

/-- Lane 15, `farads`: `attr[15] = frame[11][3]` (R125). -/
def execFarads (s : State) : Host.Outcome State Fault Refusal :=
  .next (presentLanes 0x008000#24 s)

/-- Lane 16, `unknown_D1`: `attr[16] = frame[12][0]` (R126). Reserved, copied like any other (R110). -/
def execUnknownD1 (s : State) : Host.Outcome State Fault Refusal :=
  .next (presentLanes 0x010000#24 s)

/-- Lane 17, `hertz`: `attr[17] = frame[12][1]` (R127). -/
def execHertz (s : State) : Host.Outcome State Fault Refusal :=
  .next (presentLanes 0x020000#24 s)

/-- Lane 18, `volts`: `attr[18] = frame[12][2]` (R128). -/
def execVolts (s : State) : Host.Outcome State Fault Refusal :=
  .next (presentLanes 0x040000#24 s)

/-- Lane 19, `amps`: `attr[19] = frame[12][3]` (R129). -/
def execAmps (s : State) : Host.Outcome State Fault Refusal :=
  .next (presentLanes 0x080000#24 s)

/-- Lane 20, `unknown_E1`: `attr[20] = frame[13][0]` (R130). Reserved, copied like any other (R110). -/
def execUnknownE1 (s : State) : Host.Outcome State Fault Refusal :=
  .next (presentLanes 0x100000#24 s)

/-- Lane 21, `unknown_E2`: `attr[21] = frame[13][1]` (R131). Reserved, copied like any other (R110). -/
def execUnknownE2 (s : State) : Host.Outcome State Fault Refusal :=
  .next (presentLanes 0x200000#24 s)

/-- Lane 22, `degrees_C`: `attr[22] = frame[13][2]` (R132). -/
def execDegreesC (s : State) : Host.Outcome State Fault Refusal :=
  .next (presentLanes 0x400000#24 s)

/-- Lane 23, `unknown_E8`: `attr[23] = frame[13][3]` (R133). Reserved, copied like any other (R110). -/
def execUnknownE8 (s : State) : Host.Outcome State Fault Refusal :=
  .next (presentLanes 0x800000#24 s)

end Sys2Proof.Machine
end

