-- ==== Sys2Proof/Machine/DigitTable.lean ====
section
/-! DEFINITION. The meanings of the 12 entries of the DigitTable: the look-up of the entry's code in the table
the configuration holds, and the digits of the presented frame that show it (spec/41_digit_decoder.md rules
R87 to R99; log entries 4, 6 and 20). -/

namespace Sys2Proof.Machine

/-- Code 0x7D maps to the digit 0 (R88; fixed by the source). -/
def execDigit0 (s : State) : Host.Outcome State Fault Refusal :=
  .next (presentEntry 0x7D#7 s)

/-- Code 0x05 maps to the digit 1 (R89; fixed by the source). -/
def execDigit1 (s : State) : Host.Outcome State Fault Refusal :=
  .next (presentEntry 0x05#7 s)

/-- Code 0x5B maps to the digit 2 (R90; the default table; PRESUMED, general knowledge (log entry 4)). -/
def execDigit2 (s : State) : Host.Outcome State Fault Refusal :=
  .next (presentEntry 0x5B#7 s)

/-- Code 0x1F maps to the digit 3 (R91; the default table; PRESUMED, general knowledge (log entry 4)). -/
def execDigit3 (s : State) : Host.Outcome State Fault Refusal :=
  .next (presentEntry 0x1F#7 s)

/-- Code 0x27 maps to the digit 4 (R92; fixed by the source). -/
def execDigit4 (s : State) : Host.Outcome State Fault Refusal :=
  .next (presentEntry 0x27#7 s)

/-- Code 0x3E maps to the digit 5 (R93; the default table; PRESUMED, general knowledge (log entry 4)). -/
def execDigit5 (s : State) : Host.Outcome State Fault Refusal :=
  .next (presentEntry 0x3E#7 s)

/-- Code 0x7E maps to the digit 6 (R94; the default table; PRESUMED, general knowledge (log entry 4)). -/
def execDigit6 (s : State) : Host.Outcome State Fault Refusal :=
  .next (presentEntry 0x7E#7 s)

/-- Code 0x15 maps to the digit 7 (R95; fixed by the source). -/
def execDigit7 (s : State) : Host.Outcome State Fault Refusal :=
  .next (presentEntry 0x15#7 s)

/-- Code 0x7F maps to the digit 8 (R96; the default table; PRESUMED, general knowledge (log entry 4)). -/
def execDigit8 (s : State) : Host.Outcome State Fault Refusal :=
  .next (presentEntry 0x7F#7 s)

/-- Code 0x3F maps to the digit 9 (R97; the default table; PRESUMED, general knowledge (log entry 4)). -/
def execDigit9 (s : State) : Host.Outcome State Fault Refusal :=
  .next (presentEntry 0x3F#7 s)

/-- Code 0x68 maps to OVERFLOW (R98; the default table; PRESUMED, general knowledge (log entry 4)). -/
def execDigitOverflow (s : State) : Host.Outcome State Fault Refusal :=
  .next (presentEntry 0x68#7 s)

/-- Code 0x00 maps to BLANK (R99; the default table; PRESUMED, general knowledge (log entry 4)). -/
def execDigitBlank (s : State) : Host.Outcome State Fault Refusal :=
  .next (presentEntry 0x00#7 s)

end Sys2Proof.Machine
end

