-- ==== Sys2Proof/Machine/Framing.lean ====
section
/-! DEFINITION. The meanings of the 17 classes of input byte (spec/40_frame_assembler.md rules R51 to R72). -/

namespace Sys2Proof.Machine

/-- `PWRON`: `raise PowerOn()` in every state; nothing stored, nothing counted (R51). -/
def execPwron (s : State) : Host.Outcome State Fault Refusal :=
  .next (raiseEvent .powerOn s)

/-- `BAD0 d`: `raise FramingError(invalid_tag)` in every state; `d` is ignored (R52). -/
def execBad0 (_d : Nibble) (s : State) : Host.Outcome State Fault Refusal :=
  .next (raiseEvent (.framingError .invalidTag) s)

/-- `ST1 d`: `frame[0] <- d`, then count (R59). -/
def execSt1 (d : Nibble) (s : State) : Host.Outcome State Fault Refusal :=
  .next (acceptByte 0 d s)

/-- `ST2 d`: `frame[1] <- d`, then count (R60). -/
def execSt2 (d : Nibble) (s : State) : Host.Outcome State Fault Refusal :=
  .next (acceptByte 1 d s)

/-- `ST3 d`: `frame[2] <- d`, then count (R61). -/
def execSt3 (d : Nibble) (s : State) : Host.Outcome State Fault Refusal :=
  .next (acceptByte 2 d s)

/-- `ST4 d`: `frame[3] <- d`, then count (R62). -/
def execSt4 (d : Nibble) (s : State) : Host.Outcome State Fault Refusal :=
  .next (acceptByte 3 d s)

/-- `ST5 d`: `frame[4] <- d`, then count (R63). -/
def execSt5 (d : Nibble) (s : State) : Host.Outcome State Fault Refusal :=
  .next (acceptByte 4 d s)

/-- `ST6 d`: `frame[5] <- d`, then count (R64). -/
def execSt6 (d : Nibble) (s : State) : Host.Outcome State Fault Refusal :=
  .next (acceptByte 5 d s)

/-- `ST7 d`: `frame[6] <- d`, then count (R65). -/
def execSt7 (d : Nibble) (s : State) : Host.Outcome State Fault Refusal :=
  .next (acceptByte 6 d s)

/-- `ST8 d`: `frame[7] <- d`, then count (R66). -/
def execSt8 (d : Nibble) (s : State) : Host.Outcome State Fault Refusal :=
  .next (acceptByte 7 d s)

/-- `ST9 d`: `frame[8] <- d`, then count (R67). -/
def execSt9 (d : Nibble) (s : State) : Host.Outcome State Fault Refusal :=
  .next (acceptByte 8 d s)

/-- `ST10 d`: `frame[9] <- d`, then count (R68). -/
def execSt10 (d : Nibble) (s : State) : Host.Outcome State Fault Refusal :=
  .next (acceptByte 9 d s)

/-- `ST11 d`: `frame[10] <- d`, then count (R69). -/
def execSt11 (d : Nibble) (s : State) : Host.Outcome State Fault Refusal :=
  .next (acceptByte 10 d s)

/-- `ST12 d`: `frame[11] <- d`, then count (R70). -/
def execSt12 (d : Nibble) (s : State) : Host.Outcome State Fault Refusal :=
  .next (acceptByte 11 d s)

/-- `ST13 d`: `frame[12] <- d`, then count (R71). -/
def execSt13 (d : Nibble) (s : State) : Host.Outcome State Fault Refusal :=
  .next (acceptByte 12 d s)

/-- `TERM d`: `frame[13] <- d`, count, end the attempt (R72). -/
def execTerm (d : Nibble) (s : State) : Host.Outcome State Fault Refusal :=
  .next (acceptTerminal d s)

/-- `BADF d`: as `BAD0`; the event does not tell the two apart (R53). -/
def execBadF (_d : Nibble) (s : State) : Host.Outcome State Fault Refusal :=
  .next (raiseEvent (.framingError .invalidTag) s)

end Sys2Proof.Machine
end

