-- ==== Sys2Proof/Syntax.lean ====
section
/-! DEFINITION. The instructions: one constructor per row of spec/opcode_table.json, in its three formats
BYTE, SEGCODE and ATTR24 (spec/30_encoding.md rule R39, 41_digit_decoder.md rules R88 to R99,
42_attribute_mapper.md rules R110 to R133). -/

namespace Sys2Proof

/-- A word of one of the table's three formats. -/
inductive Word where
  /-- BYTE: one input byte (30_encoding R38). -/
  | byte (b : Byte)
  /-- SEGCODE: a code presented to the DigitTable (41_digit_decoder R86). -/
  | segCode (c : SegCode)
  /-- ATTR24: a selection of attribute lanes (42_attribute_mapper R106). -/
  | attrMask (m : AttrMask)
  deriving DecidableEq, Repr

/-- The rows of the opcode table. `d` is the data nibble `b[3:0]`. -/
inductive Instr where
  /-- `PWRON`, byte 0x00 (40_frame_assembler R51). -/
  | pwron
  /-- `BAD0 d`, bytes 0x01 to 0x0F, `d` not 0 (40_frame_assembler R52). -/
  | bad0 (d : Nibble)
  /-- `ST1 d`, bytes 0x10 to 0x1F (40_frame_assembler R59). -/
  | st1 (d : Nibble)
  /-- `ST2 d`, bytes 0x20 to 0x2F (40_frame_assembler R60). -/
  | st2 (d : Nibble)
  /-- `ST3 d`, bytes 0x30 to 0x3F (40_frame_assembler R61). -/
  | st3 (d : Nibble)
  /-- `ST4 d`, bytes 0x40 to 0x4F (40_frame_assembler R62). -/
  | st4 (d : Nibble)
  /-- `ST5 d`, bytes 0x50 to 0x5F (40_frame_assembler R63). -/
  | st5 (d : Nibble)
  /-- `ST6 d`, bytes 0x60 to 0x6F (40_frame_assembler R64). -/
  | st6 (d : Nibble)
  /-- `ST7 d`, bytes 0x70 to 0x7F (40_frame_assembler R65). -/
  | st7 (d : Nibble)
  /-- `ST8 d`, bytes 0x80 to 0x8F (40_frame_assembler R66). -/
  | st8 (d : Nibble)
  /-- `ST9 d`, bytes 0x90 to 0x9F (40_frame_assembler R67). -/
  | st9 (d : Nibble)
  /-- `ST10 d`, bytes 0xA0 to 0xAF (40_frame_assembler R68). -/
  | st10 (d : Nibble)
  /-- `ST11 d`, bytes 0xB0 to 0xBF (40_frame_assembler R69). -/
  | st11 (d : Nibble)
  /-- `ST12 d`, bytes 0xC0 to 0xCF (40_frame_assembler R70). -/
  | st12 (d : Nibble)
  /-- `ST13 d`, bytes 0xD0 to 0xDF (40_frame_assembler R71). -/
  | st13 (d : Nibble)
  /-- `TERM d`, bytes 0xE0 to 0xEF (40_frame_assembler R72). -/
  | term (d : Nibble)
  /-- `BADF d`, bytes 0xF0 to 0xFF (40_frame_assembler R53). -/
  | badF (d : Nibble)
  /-- DigitTable entry, code 0x7D (41_digit_decoder R88). -/
  | digit0
  /-- DigitTable entry, code 0x05 (41_digit_decoder R89). -/
  | digit1
  /-- DigitTable entry, code 0x5B (41_digit_decoder R90). -/
  | digit2
  /-- DigitTable entry, code 0x1F (41_digit_decoder R91). -/
  | digit3
  /-- DigitTable entry, code 0x27 (41_digit_decoder R92). -/
  | digit4
  /-- DigitTable entry, code 0x3E (41_digit_decoder R93). -/
  | digit5
  /-- DigitTable entry, code 0x7E (41_digit_decoder R94). -/
  | digit6
  /-- DigitTable entry, code 0x15 (41_digit_decoder R95). -/
  | digit7
  /-- DigitTable entry, code 0x7F (41_digit_decoder R96). -/
  | digit8
  /-- DigitTable entry, code 0x3F (41_digit_decoder R97). -/
  | digit9
  /-- DigitTable entry, code 0x68 (41_digit_decoder R98). -/
  | digitOverflow
  /-- DigitTable entry, code 0x00 (41_digit_decoder R99). -/
  | digitBlank
  /-- Attribute lane 0 (42_attribute_mapper R110). -/
  | unknown11
  /-- Attribute lane 1 (42_attribute_mapper R111). -/
  | auto
  /-- Attribute lane 2 (42_attribute_mapper R112). -/
  | dc
  /-- Attribute lane 3 (42_attribute_mapper R113). -/
  | ac
  /-- Attribute lane 4 (42_attribute_mapper R114). -/
  | diode
  /-- Attribute lane 5 (42_attribute_mapper R115). -/
  | kilo
  /-- Attribute lane 6 (42_attribute_mapper R116). -/
  | nano
  /-- Attribute lane 7 (42_attribute_mapper R117). -/
  | micro
  /-- Attribute lane 8 (42_attribute_mapper R118). -/
  | beep
  /-- Attribute lane 9 (42_attribute_mapper R119). -/
  | mega
  /-- Attribute lane 10 (42_attribute_mapper R120). -/
  | percent
  /-- Attribute lane 11 (42_attribute_mapper R121). -/
  | milli
  /-- Attribute lane 12 (42_attribute_mapper R122). -/
  | hold
  /-- Attribute lane 13 (42_attribute_mapper R123). -/
  | relDelta
  /-- Attribute lane 14 (42_attribute_mapper R124). -/
  | ohms
  /-- Attribute lane 15 (42_attribute_mapper R125). -/
  | farads
  /-- Attribute lane 16 (42_attribute_mapper R126). -/
  | unknownD1
  /-- Attribute lane 17 (42_attribute_mapper R127). -/
  | hertz
  /-- Attribute lane 18 (42_attribute_mapper R128). -/
  | volts
  /-- Attribute lane 19 (42_attribute_mapper R129). -/
  | amps
  /-- Attribute lane 20 (42_attribute_mapper R130). -/
  | unknownE1
  /-- Attribute lane 21 (42_attribute_mapper R131). -/
  | unknownE2
  /-- Attribute lane 22 (42_attribute_mapper R132). -/
  | degreesC
  /-- Attribute lane 23 (42_attribute_mapper R133). -/
  | unknownE8
  deriving DecidableEq, Repr

end Sys2Proof
end

