-- ==== Sys2Proof/Machine/Dispatch.lean ====
section
/-! DEFINITION. The dispatch: one arm per row of the opcode table. -/

namespace Sys2Proof.Machine

def exec (i : Instr) (s : State) : Host.Outcome State Fault Refusal :=
  match i with
  | .pwron => Sys2Proof.Machine.execPwron s
  | .bad0 d => Sys2Proof.Machine.execBad0 d s
  | .st1 d => Sys2Proof.Machine.execSt1 d s
  | .st2 d => Sys2Proof.Machine.execSt2 d s
  | .st3 d => Sys2Proof.Machine.execSt3 d s
  | .st4 d => Sys2Proof.Machine.execSt4 d s
  | .st5 d => Sys2Proof.Machine.execSt5 d s
  | .st6 d => Sys2Proof.Machine.execSt6 d s
  | .st7 d => Sys2Proof.Machine.execSt7 d s
  | .st8 d => Sys2Proof.Machine.execSt8 d s
  | .st9 d => Sys2Proof.Machine.execSt9 d s
  | .st10 d => Sys2Proof.Machine.execSt10 d s
  | .st11 d => Sys2Proof.Machine.execSt11 d s
  | .st12 d => Sys2Proof.Machine.execSt12 d s
  | .st13 d => Sys2Proof.Machine.execSt13 d s
  | .term d => Sys2Proof.Machine.execTerm d s
  | .badF d => Sys2Proof.Machine.execBadF d s
  | .digit0 => Sys2Proof.Machine.execDigit0 s
  | .digit1 => Sys2Proof.Machine.execDigit1 s
  | .digit2 => Sys2Proof.Machine.execDigit2 s
  | .digit3 => Sys2Proof.Machine.execDigit3 s
  | .digit4 => Sys2Proof.Machine.execDigit4 s
  | .digit5 => Sys2Proof.Machine.execDigit5 s
  | .digit6 => Sys2Proof.Machine.execDigit6 s
  | .digit7 => Sys2Proof.Machine.execDigit7 s
  | .digit8 => Sys2Proof.Machine.execDigit8 s
  | .digit9 => Sys2Proof.Machine.execDigit9 s
  | .digitOverflow => Sys2Proof.Machine.execDigitOverflow s
  | .digitBlank => Sys2Proof.Machine.execDigitBlank s
  | .unknown11 => Sys2Proof.Machine.execUnknown11 s
  | .auto => Sys2Proof.Machine.execAuto s
  | .dc => Sys2Proof.Machine.execDc s
  | .ac => Sys2Proof.Machine.execAc s
  | .diode => Sys2Proof.Machine.execDiode s
  | .kilo => Sys2Proof.Machine.execKilo s
  | .nano => Sys2Proof.Machine.execNano s
  | .micro => Sys2Proof.Machine.execMicro s
  | .beep => Sys2Proof.Machine.execBeep s
  | .mega => Sys2Proof.Machine.execMega s
  | .percent => Sys2Proof.Machine.execPercent s
  | .milli => Sys2Proof.Machine.execMilli s
  | .hold => Sys2Proof.Machine.execHold s
  | .relDelta => Sys2Proof.Machine.execRelDelta s
  | .ohms => Sys2Proof.Machine.execOhms s
  | .farads => Sys2Proof.Machine.execFarads s
  | .unknownD1 => Sys2Proof.Machine.execUnknownD1 s
  | .hertz => Sys2Proof.Machine.execHertz s
  | .volts => Sys2Proof.Machine.execVolts s
  | .amps => Sys2Proof.Machine.execAmps s
  | .unknownE1 => Sys2Proof.Machine.execUnknownE1 s
  | .unknownE2 => Sys2Proof.Machine.execUnknownE2 s
  | .degreesC => Sys2Proof.Machine.execDegreesC s
  | .unknownE8 => Sys2Proof.Machine.execUnknownE8 s

end Sys2Proof.Machine
end

