-- ==== Sys2Proof/WellFormed.lean ====
section
/-! DEFINITION. Which terms of `Instr` stand for an instruction: the one restriction on an operand
that the opcode table makes (spec/30_encoding.md rules R39, R40). -/

namespace Sys2Proof

/-- `BAD0 d` has `d` from 1 to 15, since the byte 0x00 is `PWRON` (30_encoding R40, R47); every
other row admits every operand. -/
def Instr.wf : Instr → Bool
  | .bad0 d => d != 0#4
  | _ => true

/-- The rows of the format BYTE: the 17 classes of input byte (30_encoding R39). -/
def Instr.isByteClass : Instr → Bool
  | .pwron | .bad0 _ | .st1 _ | .st2 _ | .st3 _ | .st4 _ | .st5 _ | .st6 _ | .st7 _ | .st8 _
  | .st9 _ | .st10 _ | .st11 _ | .st12 _ | .st13 _ | .term _ | .badF _ => true
  | _ => false

end Sys2Proof
end

