-- ==== Sys2Proof/Decode.lean ====
section
/-! DEFINITION. Decoding, total on every word of the three formats, and the encoder; the pseudo-instructions;
the host's numbering of table words (spec/30_encoding.md rules R38 to R48). -/

namespace Sys2Proof

/-- `tag = b[7:4]` (30_encoding R38, 20_memory R26). -/
def tagOf (b : Byte) : Nibble := b.extractLsb' 4 4

/-- `d = b[3:0]` (30_encoding R38, 20_memory R26). -/
def dataOf (b : Byte) : Nibble := b.extractLsb' 0 4

/-- The byte with tag `t` and data nibble `d`: `(t << 4) | d` (30_encoding R47). -/
def byteOf (t d : Nibble) : Byte := t ++ d

/-- The class of a byte that is not 0x00, by its tag; `d` is its data nibble (30_encoding R39). -/
def classOf (tag d : Nibble) : Instr :=
  match tag with
  | 0x0#4 => .bad0 d
  | 0x1#4 => .st1 d
  | 0x2#4 => .st2 d
  | 0x3#4 => .st3 d
  | 0x4#4 => .st4 d
  | 0x5#4 => .st5 d
  | 0x6#4 => .st6 d
  | 0x7#4 => .st7 d
  | 0x8#4 => .st8 d
  | 0x9#4 => .st9 d
  | 0xA#4 => .st10 d
  | 0xB#4 => .st11 d
  | 0xC#4 => .st12 d
  | 0xD#4 => .st13 d
  | 0xE#4 => .term d
  | _ => .badF d

/-- Decoding of the input byte, total and ordered: the whole byte is compared with 0x00 first, the
tag is looked at after that (30_encoding R39, R40). -/
def decodeByte (b : Byte) : Instr :=
  if b = 0x00#8 then .pwron else classOf (tagOf b) (dataOf b)

/-- The SEGCODE rows of the opcode table: code and entry (41_digit_decoder R88 to R99). -/
def segCodeRows : List (SegCode × Instr) :=
  [(0x7D#7, .digit0), (0x05#7, .digit1), (0x5B#7, .digit2), (0x1F#7, .digit3),
   (0x27#7, .digit4), (0x3E#7, .digit5), (0x7E#7, .digit6), (0x15#7, .digit7),
   (0x7F#7, .digit8), (0x3F#7, .digit9), (0x68#7, .digitOverflow), (0x00#7, .digitBlank)]

/-- The ATTR24 rows of the opcode table: mask and lane (42_attribute_mapper R110 to R133). -/
def attrMaskRows : List (AttrMask × Instr) :=
  [(0x000001#24, .unknown11), (0x000002#24, .auto), (0x000004#24, .dc),
   (0x000008#24, .ac), (0x000010#24, .diode), (0x000020#24, .kilo),
   (0x000040#24, .nano), (0x000080#24, .micro), (0x000100#24, .beep),
   (0x000200#24, .mega), (0x000400#24, .percent), (0x000800#24, .milli),
   (0x001000#24, .hold), (0x002000#24, .relDelta), (0x004000#24, .ohms),
   (0x008000#24, .farads), (0x010000#24, .unknownD1), (0x020000#24, .hertz),
   (0x040000#24, .volts), (0x080000#24, .amps), (0x100000#24, .unknownE1),
   (0x200000#24, .unknownE2), (0x400000#24, .degreesC), (0x800000#24, .unknownE8)]

/-- The row of the DigitTable with this code; `none` for the 116 codes that have no row. -/
def decodeSegCode (c : SegCode) : Option Instr :=
  (segCodeRows.find? (fun r => r.1 == c)).map Prod.snd

/-- The lane row of a mask with exactly that lane's bit; `none` for every other mask. -/
def decodeAttrMask (m : AttrMask) : Option Instr :=
  (attrMaskRows.find? (fun r => r.1 == m)).map Prod.snd

/-- Decoding of a word of any of the three formats. -/
def decode : Word → Option Instr
  | .byte b => some (decodeByte b)
  | .segCode c => decodeSegCode c
  | .attrMask m => decodeAttrMask m

/-- The word of an instruction, from the encodings of 30_encoding R39 and R47, 41_digit_decoder R88
to R99 and 42_attribute_mapper R110 to R133. -/
def encode : Instr → Word
  | .pwron => .byte 0x00#8
  | .bad0 d => .byte (byteOf 0x0#4 d)
  | .st1 d => .byte (byteOf 0x1#4 d)
  | .st2 d => .byte (byteOf 0x2#4 d)
  | .st3 d => .byte (byteOf 0x3#4 d)
  | .st4 d => .byte (byteOf 0x4#4 d)
  | .st5 d => .byte (byteOf 0x5#4 d)
  | .st6 d => .byte (byteOf 0x6#4 d)
  | .st7 d => .byte (byteOf 0x7#4 d)
  | .st8 d => .byte (byteOf 0x8#4 d)
  | .st9 d => .byte (byteOf 0x9#4 d)
  | .st10 d => .byte (byteOf 0xA#4 d)
  | .st11 d => .byte (byteOf 0xB#4 d)
  | .st12 d => .byte (byteOf 0xC#4 d)
  | .st13 d => .byte (byteOf 0xD#4 d)
  | .term d => .byte (byteOf 0xE#4 d)
  | .badF d => .byte (byteOf 0xF#4 d)
  | .digit0 => .segCode 0x7D#7
  | .digit1 => .segCode 0x05#7
  | .digit2 => .segCode 0x5B#7
  | .digit3 => .segCode 0x1F#7
  | .digit4 => .segCode 0x27#7
  | .digit5 => .segCode 0x3E#7
  | .digit6 => .segCode 0x7E#7
  | .digit7 => .segCode 0x15#7
  | .digit8 => .segCode 0x7F#7
  | .digit9 => .segCode 0x3F#7
  | .digitOverflow => .segCode 0x68#7
  | .digitBlank => .segCode 0x00#7
  | .unknown11 => .attrMask 0x000001#24
  | .auto => .attrMask 0x000002#24
  | .dc => .attrMask 0x000004#24
  | .ac => .attrMask 0x000008#24
  | .diode => .attrMask 0x000010#24
  | .kilo => .attrMask 0x000020#24
  | .nano => .attrMask 0x000040#24
  | .micro => .attrMask 0x000080#24
  | .beep => .attrMask 0x000100#24
  | .mega => .attrMask 0x000200#24
  | .percent => .attrMask 0x000400#24
  | .milli => .attrMask 0x000800#24
  | .hold => .attrMask 0x001000#24
  | .relDelta => .attrMask 0x002000#24
  | .ohms => .attrMask 0x004000#24
  | .farads => .attrMask 0x008000#24
  | .unknownD1 => .attrMask 0x010000#24
  | .hertz => .attrMask 0x020000#24
  | .volts => .attrMask 0x040000#24
  | .amps => .attrMask 0x080000#24
  | .unknownE1 => .attrMask 0x100000#24
  | .unknownE2 => .attrMask 0x200000#24
  | .degreesC => .attrMask 0x400000#24
  | .unknownE8 => .attrMask 0x800000#24

/-- The bits of a word as a number. -/
def Word.bits : Word → Nat
  | .byte b => b.toNat
  | .segCode c => c.toNat
  | .attrMask m => m.toNat

/-- The row of an instruction in spec/opcode_table.json: its match and its mask. -/
def opcodeRow : Instr → Nat × Nat
  | .pwron => (0x00, 0xFF)
  | .bad0 _ => (0x00, 0xF0)
  | .st1 _ => (0x10, 0xF0)
  | .st2 _ => (0x20, 0xF0)
  | .st3 _ => (0x30, 0xF0)
  | .st4 _ => (0x40, 0xF0)
  | .st5 _ => (0x50, 0xF0)
  | .st6 _ => (0x60, 0xF0)
  | .st7 _ => (0x70, 0xF0)
  | .st8 _ => (0x80, 0xF0)
  | .st9 _ => (0x90, 0xF0)
  | .st10 _ => (0xA0, 0xF0)
  | .st11 _ => (0xB0, 0xF0)
  | .st12 _ => (0xC0, 0xF0)
  | .st13 _ => (0xD0, 0xF0)
  | .term _ => (0xE0, 0xF0)
  | .badF _ => (0xF0, 0xF0)
  | .digit0 => (0x7D, 0x7F)
  | .digit1 => (0x05, 0x7F)
  | .digit2 => (0x5B, 0x7F)
  | .digit3 => (0x1F, 0x7F)
  | .digit4 => (0x27, 0x7F)
  | .digit5 => (0x3E, 0x7F)
  | .digit6 => (0x7E, 0x7F)
  | .digit7 => (0x15, 0x7F)
  | .digit8 => (0x7F, 0x7F)
  | .digit9 => (0x3F, 0x7F)
  | .digitOverflow => (0x68, 0x7F)
  | .digitBlank => (0x00, 0x7F)
  | .unknown11 => (0x000001, 0x000001)
  | .auto => (0x000002, 0x000002)
  | .dc => (0x000004, 0x000004)
  | .ac => (0x000008, 0x000008)
  | .diode => (0x000010, 0x000010)
  | .kilo => (0x000020, 0x000020)
  | .nano => (0x000040, 0x000040)
  | .micro => (0x000080, 0x000080)
  | .beep => (0x000100, 0x000100)
  | .mega => (0x000200, 0x000200)
  | .percent => (0x000400, 0x000400)
  | .milli => (0x000800, 0x000800)
  | .hold => (0x001000, 0x001000)
  | .relDelta => (0x002000, 0x002000)
  | .ohms => (0x004000, 0x004000)
  | .farads => (0x008000, 0x008000)
  | .unknownD1 => (0x010000, 0x010000)
  | .hertz => (0x020000, 0x020000)
  | .volts => (0x040000, 0x040000)
  | .amps => (0x080000, 0x080000)
  | .unknownE1 => (0x100000, 0x100000)
  | .unknownE2 => (0x200000, 0x200000)
  | .degreesC => (0x400000, 0x400000)
  | .unknownE8 => (0x800000, 0x800000)

/-- The pseudo-instruction `FRAME14 n0 n1 ... n13`: the 14 bytes `((i + 1) << 4) | n_i` in order
(30_encoding R48). -/
def frame14 (n : Frame) : List Byte :=
  List.ofFn fun i : Fin 14 => byteOf (BitVec.ofNat 4 (i.val + 1)) n[i]

/-- The pseudo-instruction `FRAME13 n1 ... n13`: the same bytes with the tag-1 byte omitted
(30_encoding R48). -/
def frame13 (n : Frame) : List Byte := (frame14 n).tail

/-- The word that `nbits` bits of value `w` stand for: 8 bits are an input byte, 7 bits a segment
code, 16 or 24 bits an attribute mask whose bits above `nbits` are 0 (log entry 8). -/
def wordOf (nbits w : Nat) : Option Word :=
  if w < 2 ^ nbits then
    match nbits with
    | 8 => some (.byte (BitVec.ofNat 8 w))
    | 7 => some (.segCode (BitVec.ofNat 7 w))
    | 16 => some (.attrMask (BitVec.ofNat 24 w))
    | 24 => some (.attrMask (BitVec.ofNat 24 w))
    | _ => none
  else none

/-- The host's reading of a table word: bit 0 is the least significant bit of the first byte. -/
def decodeTableWord (nbits w : Nat) : Option Instr :=
  match wordOf nbits w with
  | some word => decode word
  | none => none

end Sys2Proof
end

