-- ==== Sys2Proof/Machine/Fetch.lean ====
section
/-! DEFINITION. What a step does before an instruction runs: take what the environment presents, reset, idle
cycles, decoding; and how the host places a table word (spec/43_reading_assembly.md rules R135, R143;
70_reset_and_hazards.md rule R161; 40_frame_assembler.md rule R76). -/

namespace Sys2Proof.Machine

/-- What the step goes on with: an instruction to run at a state, or the next state. -/
inductive Fetched where
  | run (i : Instr) (s : State)
  | done (s : State)
  deriving DecidableEq, Repr

/-- Nothing happens: the state holds, no event is emitted (40_frame_assembler R76; log entry 10). -/
def State.hold (s : State) : State := { s with out := .idle }

/-- A byte is taken: it gets the next index of the run (43_reading_assembly R137). -/
def State.takeByte (s : State) : State := { s with taken := s.taken + 1 }

/-- One cycle of the ports: `rst` wins over a byte, which is then lost, and gives `CLEAN` without an
event (70_reset R161, 60_exceptions R153; log entry 9); a byte is taken and decoded; without one
the state holds (43_reading_assembly R143). -/
def fetchCycle (rst inValid : Bool) (inByte : Byte) (s : State) : Fetched :=
  if rst then .done s.clean.hold
  else if inValid then .run (decodeByte inByte) s.takeByte
  else .done s.hold

/-- A word for the DigitTable alone: its row, or the look-up itself for a code without a row
(41_digit_decoder R87; log entry 6). -/
def fetchSegCode (c : SegCode) (s : State) : Fetched :=
  match decodeSegCode c with
  | some i => .run i s
  | none => .done (presentEntry c s)

/-- A word for the AttributeTable alone: its row, or the lanes selected by a mask without a row
(42_attribute_mapper R134; log entry 7). -/
def fetchAttrMask (m : AttrMask) (s : State) : Fetched :=
  match decodeAttrMask m with
  | some i => .run i s
  | none => .done (presentLanes m s)

/-- The earliest input is consumed (43_reading_assembly R135); with none left nothing happens
(40_frame_assembler R76). -/
def fetch (s : State) : Fetched :=
  match s.input with
  | [] => .done s.hold
  | .cycle rst inValid inByte :: rest => fetchCycle rst inValid inByte { s with input := rest }
  | .segCode c f :: rest => fetchSegCode c { s with input := rest, tableFrame := f }
  | .attrMask m f :: rest => fetchAttrMask m { s with input := rest, tableFrame := f }

/-- How the environment presents a word: a byte in a cycle with `in_valid = 1` and no reset, a word
of one of the tables with the frame `f` (log entry 20). -/
def inputOf (f : Frame) : Word → Input
  | .byte b => .cycle false true b
  | .segCode c => .segCode c f
  | .attrMask m => .attrMask m f

/-- The environment presents these bytes, one a cycle, before whatever it was going to present. -/
def State.presenting (bs : List Byte) (s : State) : State :=
  { s with input := bs.map (fun b => .cycle false true b) ++ s.input }

/-- The word is presented next, with the frame that the tables were presented last; nothing else
changes (log entries 1, 20). -/
def placeWord (nbits w : Nat) (s : State) : State :=
  match wordOf nbits w with
  | some word => { s with input := inputOf s.tableFrame word :: s.input }
  | none => s

end Sys2Proof.Machine
end

