-- ==== Sys2Proof/Machine/Step.lean ====
section
/-! DEFINITION. One step (spec/00_scope.md rule R7; 40_frame_assembler.md rule R49; log entry 14). -/

namespace Sys2Proof.Machine

/-- One step: what the environment presents is taken, and the instruction it decodes to is run. -/
def step (s : State) : Host.Outcome State Fault Refusal :=
  match fetch s with
  | .run i s' => exec i s'
  | .done s' => .next s'

/-- The state with a table word presented for the very next step (log entries 1, 8). -/
def State.withFetchWord (s : State) (nbits w : Nat) : State := placeWord nbits w s

end Sys2Proof.Machine
end

