-- ==== Sys2Proof/Machine/Ports.lean ====
section
/-! DEFINITION. The output ports as functions of what a step presents (spec/30_encoding.md rules R41 to R44;
43_reading_assembly.md rule R143). A payload port has a value only with `ev_code = 1` (log entry 12). -/

namespace Sys2Proof.Machine

/-- The code of an event, 3 bits (30_encoding R42). -/
def Event.code : Event → BitVec 3
  | .completeFrame _ _ => 1#3
  | .powerOn => 2#3
  | .framingError .invalidTag => 4#3
  | .framingError .shortFrame => 5#3
  | .framingError .frameTooLong => 6#3

/-- `ev_code`: 0 in a step without an event (43_reading_assembly R143). -/
def Output.evCode : Output → BitVec 3
  | .event e => e.code
  | .idle => 0#3
  | .digitEntry _ _ _ => 0#3
  | .lanes _ _ => 0#3

/-- `ev_valid`, equal to `ev_code != 0` (43_reading_assembly R143). -/
def Output.evValid (o : Output) : Bool := o.evCode != 0#3

/-- The frame and the Reading of a `CompleteFrame`, the only event with a payload
(43_reading_assembly R143). -/
def Output.payload : Output → Option (Frame × Reading)
  | .event (.completeFrame f r) => some (f, r)
  | .event .powerOn => none
  | .event (.framingError _) => none
  | .idle => none
  | .digitEntry _ _ _ => none
  | .lanes _ _ => none

/-- The symbol code, 4 bits (30_encoding R43). -/
def Symbol.code : Symbol → BitVec 4
  | .glyph (.digit n) => BitVec.ofNat 4 n.val
  | .glyph .overflow => 0xA#4
  | .glyph .blank => 0xB#4
  | .invalid => 0xF#4

/-- Packing of Booleans, the first at bit 0 (30_encoding R44). -/
def packBools {n : Nat} (v : Vector Bool n) : BitVec n :=
  BitVec.ofNat n (v.toList.foldr (fun b acc => b.toNat + 2 * acc) 0)

/-- `frame[i]` at bits `4i+3 : 4i` of a 56-bit number (30_encoding R41). -/
def packFrame (f : Frame) : BitVec 56 :=
  f[13] ++ f[12] ++ f[11] ++ f[10] ++ f[9] ++ f[8] ++ f[7] ++ f[6] ++ f[5] ++ f[4] ++ f[3] ++
    f[2] ++ f[1] ++ f[0]

/-- `frame_o` (43_reading_assembly R143). -/
def Output.frameO (o : Output) : Option (BitVec 56) := o.payload.map fun p => packFrame p.1

/-- `sym`: `sym[k]` at bits `4(k-1)+3 : 4(k-1)` (30_encoding R44). -/
def Output.symO (o : Output) : Option (BitVec 16) :=
  o.payload.map fun p => p.2.sym[3].code ++ p.2.sym[2].code ++ p.2.sym[1].code ++ p.2.sym[0].code

/-- `seg`: `seg[k]` at bits `7(k-1)+6 : 7(k-1)` (30_encoding R44). -/
def Output.segO (o : Output) : Option (BitVec 28) :=
  o.payload.map fun p => p.2.seg[3] ++ p.2.seg[2] ++ p.2.seg[1] ++ p.2.seg[0]

/-- `inv`: `inv[k]` at bit `k - 1` (30_encoding R44). -/
def Output.invO (o : Output) : Option (BitVec 4) := o.payload.map fun p => packBools p.2.inv

/-- `any_invalid` (43_reading_assembly R143). -/
def Output.anyInvalidO (o : Output) : Option Bool := o.payload.map fun p => p.2.anyInvalid

/-- `sign`, 1 is negative (30_encoding R44). -/
def Output.signO (o : Output) : Option Bool := o.payload.map fun p => p.2.sign

/-- `dp`: `dp[g]` at bit `g - 1` (30_encoding R44). -/
def Output.dpO (o : Output) : Option (BitVec 3) := o.payload.map fun p => packBools p.2.dp

/-- `attr`: logical bit `n` at bit `n` (30_encoding R44). -/
def Output.attrO (o : Output) : Option AttrMask := o.payload.map fun p => p.2.attr

end Sys2Proof.Machine
end

