-- ==== Sys2Proof/Laws/Decoder.lean ====
section
/-! SUPPORT. What the concatenations of the Decoder and of the ports hold: each lane is its slot's bit, each field of
a packed frame its slot. -/

namespace Sys2Proof.Machine

/-- The 24 lanes one by one. -/
theorem fin24_cases : ∀ n : Fin 24, n = 0 ∨ n = 1 ∨ n = 2 ∨ n = 3 ∨ n = 4 ∨ n = 5 ∨ n = 6 ∨ n = 7 ∨
    n = 8 ∨ n = 9 ∨ n = 10 ∨ n = 11 ∨ n = 12 ∨ n = 13 ∨ n = 14 ∨ n = 15 ∨ n = 16 ∨ n = 17 ∨
    n = 18 ∨ n = 19 ∨ n = 20 ∨ n = 21 ∨ n = 22 ∨ n = 23 := by decide

/-- The 14 slots one by one. -/
theorem fin14_cases : ∀ n : Fin 14, n = 0 ∨ n = 1 ∨ n = 2 ∨ n = 3 ∨ n = 4 ∨ n = 5 ∨ n = 6 ∨ n = 7 ∨
    n = 8 ∨ n = 9 ∨ n = 10 ∨ n = 11 ∨ n = 12 ∨ n = 13 := by decide

/-- Lane `n` is bit `n mod 4` of slot `idx(n)` (42_attribute_mapper R106). -/
theorem attrOf_getLsbD (f : Frame) (n : Fin 24) :
    (attrOf f).getLsbD n.val = f[laneSlot n].getLsbD (laneBit n) := by
  rcases fin24_cases n with rfl | rfl | rfl | rfl | rfl | rfl | rfl | rfl | rfl | rfl | rfl | rfl |
    rfl | rfl | rfl | rfl | rfl | rfl | rfl | rfl | rfl | rfl | rfl | rfl <;>
    (simp only [attrOf, BitVec.getLsbD_append]; simp [laneSlot, laneBit])

/-- Slot `i` stands at bits `4i+3 : 4i` (30_encoding R41). -/
theorem packFrame_slot (f : Frame) (i : Fin 14) :
    (packFrame f).extractLsb' (4 * i.val) 4 = f[i] := by
  rcases fin14_cases i with rfl | rfl | rfl | rfl | rfl | rfl | rfl | rfl | rfl | rfl | rfl | rfl |
    rfl | rfl <;>
  · apply BitVec.eq_of_getLsbD_eq
    intro j hj
    rcases (by omega : j = 0 ∨ j = 1 ∨ j = 2 ∨ j = 3) with rfl | rfl | rfl | rfl <;>
    · simp only [packFrame, BitVec.getLsbD_extractLsb', BitVec.getLsbD_append]
      simp

end Sys2Proof.Machine
end

