-- ==== Sys2Proof/Safety.lean ====
section
/-! DEFINITION. The terms the statements are made in: the clean state, the invariants of the reachable states,
runs over byte lists, what an attempt has stored, and a run that does not stop
(spec/10_state.md rules R13, R20; 43_reading_assembly.md rule R137). -/

namespace Sys2Proof.Machine

/-- The state is `CLEAN` (10_state R13). -/
abbrev State.IsClean (s : State) : Prop := s.cnt = 0#4 ∧ s.frame = Frame.zero

/-- The invariant of the reachable states (10_state R20): (b) with `cnt = 0` every slot is 0,
(c) `frame[13] = 0`, (d) at most `cnt` of `frame[0..12]` are non-zero. (a) holds by the type. -/
abbrev FrameInv (s : State) : Prop :=
  (s.cnt = 0#4 → s.frame = Frame.zero) ∧ s.frame[13] = 0#4 ∧
    (s.frame.toList.take 13).countP (fun v => v != 0#4) ≤ s.cnt.toNat

/-- An event is right about itself: the Reading of a `CompleteFrame` is the Decoder's
(43_reading_assembly R138, R141). -/
def Event.Faithful (lut : DigitLut) : Event → Prop
  | .completeFrame f r => r = readingOf lut f
  | .powerOn => True
  | .framingError _ => True

/-- The trace is a trace (43_reading_assembly R136, R137): the indices rise strictly and are indices
of bytes already taken, and every `CompleteFrame` carries its own Reading. -/
def TraceInv (s : State) : Prop :=
  (s.trace.map Prod.fst).Pairwise (· < ·) ∧
    (∀ p ∈ s.trace, 1 ≤ p.1 ∧ p.1 ≤ s.taken) ∧
    ∀ p ∈ s.trace, p.2.Faithful s.cfg.digitLut

/-- The state after a run over a list of bytes, one a step (43_reading_assembly R137). -/
def runBytes (bs : List Byte) (s : State) : Host.Outcome State Fault Refusal :=
  Host.Core.run Sys2Proof.core bs.length (s.presenting bs)

/-- A run of `n` steps that does not stop. -/
def NeverStops (n : Nat) (s : State) : Prop := ∃ t, Host.Core.run Sys2Proof.core n s = .next t

/-- The byte is accepted (00_scope glossary): its tag is 1 to 14. -/
abbrev Accepted (b : Byte) : Prop := 1 ≤ (tagOf b).toNat ∧ (tagOf b).toNat ≤ 14

/-- The byte is accepted and not terminal: its tag is 1 to 13. -/
abbrev NonTerminal (b : Byte) : Prop := 1 ≤ (tagOf b).toNat ∧ (tagOf b).toNat ≤ 13

/-- What slot `i` holds when the bytes of an attempt so far are `bs`: the data nibble of the last
one with tag `i + 1`, or 0 (10_state R20 (e), 40_frame_assembler R55). -/
def slotAfter (bs : List Byte) (i : Fin 14) : Nibble :=
  match bs.reverse.find? (fun b => (tagOf b).toNat == i.val + 1) with
  | some b => dataOf b
  | none => 0#4

/-- The frame those bytes assemble. -/
def frameAfter (bs : List Byte) : Frame := Vector.ofFn (slotAfter bs)

/-- The state after an event: `CLEAN`, and the event delivered (60_exceptions R154). -/
def State.afterEvent (e : Event) (s : State) : State :=
  { s with cnt := 0#4, frame := Frame.zero, out := .event e, trace := s.trace ++ [(s.taken, e)] }

end Sys2Proof.Machine
end

