-- ==== Sys2Proof/Laws/State.lean ====
section
/-! SUPPORT. One lemma per field of State per update, each true by unfolding. -/

namespace Sys2Proof.Machine

@[simp] theorem clean_cnt (s : State) : s.clean.cnt = 0#4 := rfl
@[simp] theorem clean_frame (s : State) : s.clean.frame = Frame.zero := rfl
@[simp] theorem clean_cfg (s : State) : s.clean.cfg = s.cfg := rfl
@[simp] theorem clean_input (s : State) : s.clean.input = s.input := rfl
@[simp] theorem clean_tableFrame (s : State) : s.clean.tableFrame = s.tableFrame := rfl
@[simp] theorem clean_taken (s : State) : s.clean.taken = s.taken := rfl
@[simp] theorem clean_out (s : State) : s.clean.out = s.out := rfl
@[simp] theorem clean_trace (s : State) : s.clean.trace = s.trace := rfl

@[simp] theorem raiseEvent_cnt (e : Event) (s : State) : (raiseEvent e s).cnt = 0#4 := rfl
@[simp] theorem raiseEvent_frame (e : Event) (s : State) : (raiseEvent e s).frame = Frame.zero := rfl
@[simp] theorem raiseEvent_cfg (e : Event) (s : State) : (raiseEvent e s).cfg = s.cfg := rfl
@[simp] theorem raiseEvent_input (e : Event) (s : State) : (raiseEvent e s).input = s.input := rfl
@[simp] theorem raiseEvent_tableFrame (e : Event) (s : State) : (raiseEvent e s).tableFrame = s.tableFrame := rfl
@[simp] theorem raiseEvent_taken (e : Event) (s : State) : (raiseEvent e s).taken = s.taken := rfl
@[simp] theorem raiseEvent_out (e : Event) (s : State) : (raiseEvent e s).out = .event e := rfl
@[simp] theorem raiseEvent_trace (e : Event) (s : State) : (raiseEvent e s).trace = s.trace ++ [(s.taken, e)] := rfl

@[simp] theorem storeSlot_cnt (i : Fin 14) (d : Nibble) (s : State) : (storeSlot i d s).cnt = s.cnt := rfl
@[simp] theorem storeSlot_frame (i : Fin 14) (d : Nibble) (s : State) : (storeSlot i d s).frame = s.frame.set i.val d i.isLt := rfl
@[simp] theorem storeSlot_cfg (i : Fin 14) (d : Nibble) (s : State) : (storeSlot i d s).cfg = s.cfg := rfl
@[simp] theorem storeSlot_input (i : Fin 14) (d : Nibble) (s : State) : (storeSlot i d s).input = s.input := rfl
@[simp] theorem storeSlot_tableFrame (i : Fin 14) (d : Nibble) (s : State) : (storeSlot i d s).tableFrame = s.tableFrame := rfl
@[simp] theorem storeSlot_taken (i : Fin 14) (d : Nibble) (s : State) : (storeSlot i d s).taken = s.taken := rfl
@[simp] theorem storeSlot_out (i : Fin 14) (d : Nibble) (s : State) : (storeSlot i d s).out = s.out := rfl
@[simp] theorem storeSlot_trace (i : Fin 14) (d : Nibble) (s : State) : (storeSlot i d s).trace = s.trace := rfl

@[simp] theorem keepCount_cnt (c : BitVec 5) (s : State) : (keepCount c s).cnt = c.setWidth 4 := rfl
@[simp] theorem keepCount_frame (c : BitVec 5) (s : State) : (keepCount c s).frame = s.frame := rfl
@[simp] theorem keepCount_cfg (c : BitVec 5) (s : State) : (keepCount c s).cfg = s.cfg := rfl
@[simp] theorem keepCount_input (c : BitVec 5) (s : State) : (keepCount c s).input = s.input := rfl
@[simp] theorem keepCount_tableFrame (c : BitVec 5) (s : State) : (keepCount c s).tableFrame = s.tableFrame := rfl
@[simp] theorem keepCount_taken (c : BitVec 5) (s : State) : (keepCount c s).taken = s.taken := rfl
@[simp] theorem keepCount_out (c : BitVec 5) (s : State) : (keepCount c s).out = .idle := rfl
@[simp] theorem keepCount_trace (c : BitVec 5) (s : State) : (keepCount c s).trace = s.trace := rfl

@[simp] theorem presentEntry_cnt (c : SegCode) (s : State) : (presentEntry c s).cnt = s.cnt := rfl
@[simp] theorem presentEntry_frame (c : SegCode) (s : State) : (presentEntry c s).frame = s.frame := rfl
@[simp] theorem presentEntry_cfg (c : SegCode) (s : State) : (presentEntry c s).cfg = s.cfg := rfl
@[simp] theorem presentEntry_input (c : SegCode) (s : State) : (presentEntry c s).input = s.input := rfl
@[simp] theorem presentEntry_tableFrame (c : SegCode) (s : State) : (presentEntry c s).tableFrame = s.tableFrame := rfl
@[simp] theorem presentEntry_taken (c : SegCode) (s : State) : (presentEntry c s).taken = s.taken := rfl
@[simp] theorem presentEntry_out (c : SegCode) (s : State) : (presentEntry c s).out = .digitEntry c (lookUp s.cfg.digitLut c) (digitsShowing s.tableFrame c) := rfl
@[simp] theorem presentEntry_trace (c : SegCode) (s : State) : (presentEntry c s).trace = s.trace := rfl

@[simp] theorem presentLanes_cnt (m : AttrMask) (s : State) : (presentLanes m s).cnt = s.cnt := rfl
@[simp] theorem presentLanes_frame (m : AttrMask) (s : State) : (presentLanes m s).frame = s.frame := rfl
@[simp] theorem presentLanes_cfg (m : AttrMask) (s : State) : (presentLanes m s).cfg = s.cfg := rfl
@[simp] theorem presentLanes_input (m : AttrMask) (s : State) : (presentLanes m s).input = s.input := rfl
@[simp] theorem presentLanes_tableFrame (m : AttrMask) (s : State) : (presentLanes m s).tableFrame = s.tableFrame := rfl
@[simp] theorem presentLanes_taken (m : AttrMask) (s : State) : (presentLanes m s).taken = s.taken := rfl
@[simp] theorem presentLanes_out (m : AttrMask) (s : State) : (presentLanes m s).out = .lanes m (attrOf s.tableFrame &&& m) := rfl
@[simp] theorem presentLanes_trace (m : AttrMask) (s : State) : (presentLanes m s).trace = s.trace := rfl

@[simp] theorem hold_cnt (s : State) : s.hold.cnt = s.cnt := rfl
@[simp] theorem hold_frame (s : State) : s.hold.frame = s.frame := rfl
@[simp] theorem hold_cfg (s : State) : s.hold.cfg = s.cfg := rfl
@[simp] theorem hold_input (s : State) : s.hold.input = s.input := rfl
@[simp] theorem hold_tableFrame (s : State) : s.hold.tableFrame = s.tableFrame := rfl
@[simp] theorem hold_taken (s : State) : s.hold.taken = s.taken := rfl
@[simp] theorem hold_out (s : State) : s.hold.out = .idle := rfl
@[simp] theorem hold_trace (s : State) : s.hold.trace = s.trace := rfl

@[simp] theorem takeByte_cnt (s : State) : s.takeByte.cnt = s.cnt := rfl
@[simp] theorem takeByte_frame (s : State) : s.takeByte.frame = s.frame := rfl
@[simp] theorem takeByte_cfg (s : State) : s.takeByte.cfg = s.cfg := rfl
@[simp] theorem takeByte_input (s : State) : s.takeByte.input = s.input := rfl
@[simp] theorem takeByte_tableFrame (s : State) : s.takeByte.tableFrame = s.tableFrame := rfl
@[simp] theorem takeByte_taken (s : State) : s.takeByte.taken = s.taken + 1 := rfl
@[simp] theorem takeByte_out (s : State) : s.takeByte.out = s.out := rfl
@[simp] theorem takeByte_trace (s : State) : s.takeByte.trace = s.trace := rfl

@[simp] theorem presenting_cnt (bs : List Byte) (s : State) : (s.presenting bs).cnt = s.cnt := rfl
@[simp] theorem presenting_frame (bs : List Byte) (s : State) : (s.presenting bs).frame = s.frame := rfl
@[simp] theorem presenting_cfg (bs : List Byte) (s : State) : (s.presenting bs).cfg = s.cfg := rfl
@[simp] theorem presenting_input (bs : List Byte) (s : State) : (s.presenting bs).input = bs.map (fun b => .cycle false true b) ++ s.input := rfl
@[simp] theorem presenting_tableFrame (bs : List Byte) (s : State) : (s.presenting bs).tableFrame = s.tableFrame := rfl
@[simp] theorem presenting_taken (bs : List Byte) (s : State) : (s.presenting bs).taken = s.taken := rfl
@[simp] theorem presenting_out (bs : List Byte) (s : State) : (s.presenting bs).out = s.out := rfl
@[simp] theorem presenting_trace (bs : List Byte) (s : State) : (s.presenting bs).trace = s.trace := rfl

@[simp] theorem afterEvent_cnt (e : Event) (s : State) : (s.afterEvent e).cnt = 0#4 := rfl
@[simp] theorem afterEvent_frame (e : Event) (s : State) : (s.afterEvent e).frame = Frame.zero := rfl
@[simp] theorem afterEvent_cfg (e : Event) (s : State) : (s.afterEvent e).cfg = s.cfg := rfl
@[simp] theorem afterEvent_input (e : Event) (s : State) : (s.afterEvent e).input = s.input := rfl
@[simp] theorem afterEvent_tableFrame (e : Event) (s : State) : (s.afterEvent e).tableFrame = s.tableFrame := rfl
@[simp] theorem afterEvent_taken (e : Event) (s : State) : (s.afterEvent e).taken = s.taken := rfl
@[simp] theorem afterEvent_out (e : Event) (s : State) : (s.afterEvent e).out = .event e := rfl
@[simp] theorem afterEvent_trace (e : Event) (s : State) : (s.afterEvent e).trace = s.trace ++ [(s.taken, e)] := rfl

end Sys2Proof.Machine
end

