-- ==== Sys2Proof/Laws/Ops.lean ====
section
/-! SUPPORT. What each shared operation and each meaning can do, said once (spec/40_frame_assembler.md rules R49,
R54, R57, R58, R72; 60_exceptions.md rule R154). -/

namespace Sys2Proof.Machine

/-- An event wipes whatever its byte stored (60_exceptions R155). -/
@[simp] theorem raiseEvent_storeSlot (e : Event) (i : Fin 14) (d : Nibble) (s : State) :
    raiseEvent e (storeSlot i d s) = s.afterEvent e := rfl

theorem raiseEvent_eq_afterEvent (e : Event) (s : State) : raiseEvent e s = s.afterEvent e := rfl

theorem nextCount_toNat (s : State) : (nextCount s).toNat = s.cnt.toNat + 1 := by
  have := s.cnt.isLt
  simp [nextCount]
  omega

theorem nextCount_gt_maxBytes (s : State) : nextCount s > Config.maxBytes ↔ s.cnt = 15#4 := by
  have h := nextCount_toNat s
  have := s.cnt.isLt
  rw [gt_iff_lt, BitVec.lt_def, h, ← BitVec.toNat_inj]
  simp [Config.maxBytes]
  omega

theorem nextCount_lt_minCount (s : State) :
    nextCount s < Config.minCount ↔ s.cnt.toNat < 12 := by
  rw [BitVec.lt_def, nextCount_toNat]
  simp only [Config.minCount, BitVec.toNat_ofNat]
  omega

theorem nextCount_truncate (s : State) : (nextCount s).setWidth 4 = s.cnt + 1#4 := by
  apply BitVec.eq_of_toNat_eq
  rw [BitVec.toNat_setWidth, nextCount_toNat, BitVec.toNat_add]
  rfl

/-- A non-terminal byte that does not overflow the attempt. -/
theorem acceptByte_of_ne {s : State} (i : Fin 14) (d : Nibble) (h : s.cnt ≠ 15#4) :
    acceptByte i d s =
      { s with frame := s.frame.set i.val d i.isLt, cnt := s.cnt + 1#4, out := .idle } := by
  rw [acceptByte, if_neg (fun hc => h ((nextCount_gt_maxBytes s).mp hc)), keepCount,
    nextCount_truncate]
  rfl

/-- A non-terminal byte that is one too many. -/
theorem acceptByte_of_full {s : State} (i : Fin 14) (d : Nibble) (h : s.cnt = 15#4) :
    acceptByte i d s = s.afterEvent (.framingError .frameTooLong) := by
  rw [acceptByte, if_pos ((nextCount_gt_maxBytes s).mpr h), raiseEvent_storeSlot]

/-- A terminal byte after fewer than 12 accepted bytes. -/
theorem acceptTerminal_of_lt {s : State} (d : Nibble) (h : s.cnt.toNat < 12) :
    acceptTerminal d s = s.afterEvent (.framingError .shortFrame) := by
  simp only [acceptTerminal, if_pos ((nextCount_lt_minCount s).mpr h), raiseEvent_storeSlot]

/-- A terminal byte that completes the frame. -/
theorem acceptTerminal_of_le {s : State} (d : Nibble) (h : 12 ≤ s.cnt.toNat)
    (h16 : s.cnt = 15#4 → s.cfg.term16Completes = true) :
    acceptTerminal d s = s.afterEvent (.completeFrame (s.frame.set 13 d)
      (readingOf s.cfg.digitLut (s.frame.set 13 d))) := by
  have h1 : ¬ nextCount s < Config.minCount := fun hc => by
    have := (nextCount_lt_minCount s).mp hc
    omega
  have h2 : ¬ (nextCount s > Config.maxBytes && !s.cfg.term16Completes) = true := by
    simp only [Bool.and_eq_true, decide_eq_true_eq, Bool.not_eq_true', not_and,
      Bool.not_eq_false]
    exact fun hc => h16 ((nextCount_gt_maxBytes s).mp hc)
  simp only [acceptTerminal, if_neg h1, if_neg h2, raiseEvent_storeSlot]
  rfl

/-- A terminal byte as 16th accepted byte, under the other reading of decision D6. -/
theorem acceptTerminal_of_full {s : State} (d : Nibble) (h : s.cnt = 15#4)
    (h16 : s.cfg.term16Completes = false) :
    acceptTerminal d s = s.afterEvent (.framingError .frameTooLong) := by
  have h1 : ¬ nextCount s < Config.minCount := fun hc => by
    have := (nextCount_lt_minCount s).mp hc
    rw [h] at this
    exact absurd this (by decide)
  have h2 : (nextCount s > Config.maxBytes && !s.cfg.term16Completes) = true := by
    simp [(nextCount_gt_maxBytes s).mpr h, h16]
  simp only [acceptTerminal, if_neg h1, if_pos h2, raiseEvent_storeSlot]

/-- What a non-terminal byte can do. -/
theorem acceptByte_cases (i : Fin 14) (d : Nibble) (s : State) :
    (s.cnt ≠ 15#4 ∧ acceptByte i d s =
      { s with frame := s.frame.set i.val d i.isLt, cnt := s.cnt + 1#4, out := .idle }) ∨
    (s.cnt = 15#4 ∧ acceptByte i d s = s.afterEvent (.framingError .frameTooLong)) := by
  by_cases h : s.cnt = 15#4
  · exact .inr ⟨h, acceptByte_of_full i d h⟩
  · exact .inl ⟨h, acceptByte_of_ne i d h⟩

/-- What a terminal byte can do: one event, whose Reading, if any, is the Decoder's. -/
theorem acceptTerminal_cases (d : Nibble) (s : State) :
    ∃ e, e.Faithful s.cfg.digitLut ∧ acceptTerminal d s = s.afterEvent e := by
  by_cases h : s.cnt.toNat < 12
  · exact ⟨.framingError .shortFrame, trivial, acceptTerminal_of_lt d h⟩
  · by_cases hc : s.cnt = 15#4 ∧ s.cfg.term16Completes = false
    · exact ⟨.framingError .frameTooLong, trivial, acceptTerminal_of_full d hc.1 hc.2⟩
    · refine ⟨.completeFrame (s.frame.set 13 d) (readingOf s.cfg.digitLut (s.frame.set 13 d)),
        rfl, acceptTerminal_of_le d (by omega) fun h15 => ?_⟩
      have := fun hf => hc ⟨h15, hf⟩
      simpa using this

/-- What a meaning can do, once: an event with a right Reading, a store into one of the slots 0 to
12 with the count one up, or the presentation of a table alone. -/
def ExecResult (s t : State) : Prop :=
  (∃ e : Event, e.Faithful s.cfg.digitLut ∧ t = s.afterEvent e) ∨
  (∃ (i : Fin 14) (d : Nibble), i ≠ 13 ∧ s.cnt ≠ 15#4 ∧ t =
    { s with frame := s.frame.set i.val d i.isLt, cnt := s.cnt + 1#4, out := .idle }) ∨
  ∃ o : Output, (∀ e, o ≠ .event e) ∧ t = { s with out := o }

theorem execResult_raise (e : Event) (s : State) (h : e.Faithful s.cfg.digitLut) :
    ExecResult s (raiseEvent e s) := .inl ⟨e, h, rfl⟩

theorem execResult_acceptByte (i : Fin 14) (d : Nibble) (s : State) (hi : i ≠ 13) :
    ExecResult s (acceptByte i d s) := by
  rcases acceptByte_cases i d s with ⟨h, ht⟩ | ⟨_, ht⟩
  · exact .inr (.inl ⟨i, d, hi, h, ht⟩)
  · exact .inl ⟨.framingError .frameTooLong, trivial, ht⟩

theorem execResult_acceptTerminal (d : Nibble) (s : State) : ExecResult s (acceptTerminal d s) :=
  .inl (acceptTerminal_cases d s)

theorem execResult_presentEntry (c : SegCode) (s : State) : ExecResult s (presentEntry c s) :=
  .inr (.inr ⟨.digitEntry c (lookUp s.cfg.digitLut c) (digitsShowing s.tableFrame c),
    (fun _ h => nomatch h), rfl⟩)

theorem execResult_presentLanes (m : AttrMask) (s : State) : ExecResult s (presentLanes m s) :=
  .inr (.inr ⟨.lanes m (attrOf s.tableFrame &&& m), (fun _ h => nomatch h), rfl⟩)

/-- Every meaning answers one of those. -/
theorem exec_result (i : Instr) (s : State) : ∃ t, exec i s = .next t ∧ ExecResult s t := by
  cases i <;> refine ⟨_, rfl, ?_⟩ <;>
    first
    | exact execResult_presentLanes _ s
    | exact execResult_presentEntry _ s
    | exact execResult_acceptByte _ _ s (by decide)
    | exact execResult_acceptTerminal _ s
    | exact execResult_raise _ s trivial

/-- What a class of input byte can do: emit an event, or store and count. -/
def ByteResult (s : State) (o : Host.Outcome State Fault Refusal) : Prop :=
  (∃ e : Event, e.Faithful s.cfg.digitLut ∧ o = .next (s.afterEvent e)) ∨
  ∃ (j : Fin 14) (d : Nibble), j ≠ 13 ∧ s.cnt ≠ 15#4 ∧ o = .next
    { s with frame := s.frame.set j.val d j.isLt, cnt := s.cnt + 1#4, out := .idle }

theorem byteResult_acceptByte (j : Fin 14) (d : Nibble) (s : State) (hj : j ≠ 13) :
    ByteResult s (.next (acceptByte j d s)) := by
  rcases acceptByte_cases j d s with ⟨h, ht⟩ | ⟨_, ht⟩
  · exact .inr ⟨j, d, hj, h, congrArg _ ht⟩
  · exact .inl ⟨.framingError .frameTooLong, trivial, congrArg _ ht⟩

theorem byteResult_acceptTerminal (d : Nibble) (s : State) :
    ByteResult s (.next (acceptTerminal d s)) := by
  obtain ⟨e, hf, ht⟩ := acceptTerminal_cases d s
  exact .inl ⟨e, hf, congrArg _ ht⟩

theorem byteResult_raise (e : Event) (s : State) (h : e.Faithful s.cfg.digitLut) :
    ByteResult s (.next (raiseEvent e s)) := .inl ⟨e, h, rfl⟩

/-- A class of input byte never only presents a table. -/
theorem exec_byteClass {i : Instr} (hi : i.isByteClass = true) (s : State) :
    ByteResult s (exec i s) := by
  cases i <;>
    first
    | exact byteResult_acceptByte _ _ s (by decide)
    | exact byteResult_acceptTerminal _ s
    | exact byteResult_raise _ s trivial
    | exact absurd hi (by decide)

end Sys2Proof.Machine
end

