-- ==== Sys2Proof/Laws/PerInstr.lean ====
section
/-! SUPPORT. The laws made per instruction: RowMatch, the word of a well-formed instruction has its row's bits
under its row's mask (spec/opcode_table.json). -/

namespace Sys2Proof.Laws

/-- The word of an instruction matches its row of the opcode table. -/
abbrev RowMatch.Statement (i : Instr) : Prop :=
  i.wf = true → (encode i).bits &&& (opcodeRow i).2 = (opcodeRow i).1

namespace RowMatch

theorem pwron : Statement .pwron := by decide
theorem bad0 (d : Nibble) : Statement (.bad0 d) := by revert d; decide
theorem st1 (d : Nibble) : Statement (.st1 d) := by revert d; decide
theorem st2 (d : Nibble) : Statement (.st2 d) := by revert d; decide
theorem st3 (d : Nibble) : Statement (.st3 d) := by revert d; decide
theorem st4 (d : Nibble) : Statement (.st4 d) := by revert d; decide
theorem st5 (d : Nibble) : Statement (.st5 d) := by revert d; decide
theorem st6 (d : Nibble) : Statement (.st6 d) := by revert d; decide
theorem st7 (d : Nibble) : Statement (.st7 d) := by revert d; decide
theorem st8 (d : Nibble) : Statement (.st8 d) := by revert d; decide
theorem st9 (d : Nibble) : Statement (.st9 d) := by revert d; decide
theorem st10 (d : Nibble) : Statement (.st10 d) := by revert d; decide
theorem st11 (d : Nibble) : Statement (.st11 d) := by revert d; decide
theorem st12 (d : Nibble) : Statement (.st12 d) := by revert d; decide
theorem st13 (d : Nibble) : Statement (.st13 d) := by revert d; decide
theorem term (d : Nibble) : Statement (.term d) := by revert d; decide
theorem badF (d : Nibble) : Statement (.badF d) := by revert d; decide
theorem digit0 : Statement .digit0 := by decide
theorem digit1 : Statement .digit1 := by decide
theorem digit2 : Statement .digit2 := by decide
theorem digit3 : Statement .digit3 := by decide
theorem digit4 : Statement .digit4 := by decide
theorem digit5 : Statement .digit5 := by decide
theorem digit6 : Statement .digit6 := by decide
theorem digit7 : Statement .digit7 := by decide
theorem digit8 : Statement .digit8 := by decide
theorem digit9 : Statement .digit9 := by decide
theorem digitOverflow : Statement .digitOverflow := by decide
theorem digitBlank : Statement .digitBlank := by decide
theorem unknown11 : Statement .unknown11 := by decide
theorem auto : Statement .auto := by decide
theorem dc : Statement .dc := by decide
theorem ac : Statement .ac := by decide
theorem diode : Statement .diode := by decide
theorem kilo : Statement .kilo := by decide
theorem nano : Statement .nano := by decide
theorem micro : Statement .micro := by decide
theorem beep : Statement .beep := by decide
theorem mega : Statement .mega := by decide
theorem percent : Statement .percent := by decide
theorem milli : Statement .milli := by decide
theorem hold : Statement .hold := by decide
theorem relDelta : Statement .relDelta := by decide
theorem ohms : Statement .ohms := by decide
theorem farads : Statement .farads := by decide
theorem unknownD1 : Statement .unknownD1 := by decide
theorem hertz : Statement .hertz := by decide
theorem volts : Statement .volts := by decide
theorem amps : Statement .amps := by decide
theorem unknownE1 : Statement .unknownE1 := by decide
theorem unknownE2 : Statement .unknownE2 := by decide
theorem degreesC : Statement .degreesC := by decide
theorem unknownE8 : Statement .unknownE8 := by decide

end RowMatch

end Sys2Proof.Laws
end

