-- ==== Sys2Proof/Laws/Step.lean ====
section
/-! SUPPORT. What a step can do, said once, and how runs over byte lists unfold (spec/43_reading_assembly.md rules
R135, R137, R143; 70_reset_and_hazards.md rule R161). -/

namespace Sys2Proof.Machine

/-- A code's row is one of the SEGCODE rows. -/
theorem mem_of_decodeSegCode {c : SegCode} {i : Instr} (h : decodeSegCode c = some i) :
    (c, i) ∈ segCodeRows := by
  obtain ⟨r, hr, rfl⟩ := Option.map_eq_some_iff.mp h
  have hc := List.find?_some hr
  rw [beq_iff_eq] at hc
  exact hc ▸ List.mem_of_find?_eq_some hr

/-- A mask's row is one of the ATTR24 rows. -/
theorem mem_of_decodeAttrMask {m : AttrMask} {i : Instr} (h : decodeAttrMask m = some i) :
    (m, i) ∈ attrMaskRows := by
  obtain ⟨r, hr, rfl⟩ := Option.map_eq_some_iff.mp h
  have hc := List.find?_some hr
  rw [beq_iff_eq] at hc
  exact hc ▸ List.mem_of_find?_eq_some hr

theorem decodeByte_isByteClass : ∀ b : Byte, (decodeByte b).isByteClass = true := by decide

theorem segCodeRows_isByteClass : ∀ r ∈ segCodeRows, r.2.isByteClass = false := by decide

theorem attrMaskRows_isByteClass : ∀ r ∈ attrMaskRows, r.2.isByteClass = false := by decide

/-- A step either resets, holds or presents a table, or runs one instruction on the state with the
input consumed and the byte, if it was one, counted; a table's input also brings its frame. -/
theorem step_cases {s t : State} (h : step s = .next t) :
    (∃ (s' : State) (i : Instr), ExecResult s' t ∧ exec i s' = .next t ∧
      ((∃ f, s' = { s with input := s.input.tail, tableFrame := f }) ∧ i.isByteClass = false ∨
        s' = { s with input := s.input.tail, taken := s.taken + 1 } ∧ i.isByteClass = true)) ∨
    t = { s with cnt := 0#4, frame := Frame.zero, input := s.input.tail, out := .idle } ∨
    ∃ (o : Output) (f : Frame), (∀ e, o ≠ .event e) ∧
      t = { s with input := s.input.tail, tableFrame := f, out := o } := by
  have run : ∀ (i : Instr) (s' : State), exec i s' = .next t → ExecResult s' t := fun i s' he => by
    obtain ⟨t', ht', hr⟩ := exec_result i s'
    rw [ht'] at he
    cases he
    exact hr
  unfold step fetch at h
  match hin : s.input with
  | [] =>
    rw [hin] at h
    cases h
    exact .inr (.inr ⟨.idle, s.tableFrame, (fun _ h => nomatch h), by simp [State.hold, hin]⟩)
  | .cycle rst inValid b :: rest =>
    rw [hin] at h
    cases rst with
    | true => cases h; exact .inr (.inl rfl)
    | false =>
      cases inValid with
      | false => cases h; exact .inr (.inr ⟨.idle, s.tableFrame, (fun _ h => nomatch h), rfl⟩)
      | true => exact .inl ⟨_, decodeByte b, run _ _ h, h, .inr ⟨rfl, decodeByte_isByteClass b⟩⟩
  | .segCode c f :: rest =>
    rw [hin] at h
    simp only [fetchSegCode] at h
    cases hd : decodeSegCode c with
    | none =>
      rw [hd] at h
      cases h
      exact .inr (.inr ⟨.digitEntry c (lookUp s.cfg.digitLut c) (digitsShowing f c), f,
        (fun _ h => nomatch h), rfl⟩)
    | some i =>
      rw [hd] at h
      exact .inl ⟨_, i, run _ _ h, h,
        .inl ⟨⟨f, rfl⟩, segCodeRows_isByteClass _ (mem_of_decodeSegCode hd)⟩⟩
  | .attrMask m f :: rest =>
    rw [hin] at h
    simp only [fetchAttrMask] at h
    cases hd : decodeAttrMask m with
    | none =>
      rw [hd] at h
      cases h
      exact .inr (.inr ⟨.lanes m (attrOf f &&& m), f, (fun _ h => nomatch h), rfl⟩)
    | some i =>
      rw [hd] at h
      exact .inl ⟨_, i, run _ _ h, h,
        .inl ⟨⟨f, rfl⟩, attrMaskRows_isByteClass _ (mem_of_decodeAttrMask hd)⟩⟩

/-- A byte with a tag other than 0 is not 0x00. -/
theorem ne_zero_of_tagOf {b : Byte} (h : tagOf b ≠ 0#4) : b ≠ 0x00#8 := fun hb => by
  subst hb
  exact h rfl

/-- The class with tag `i + 1`, 1 to 13, stores its nibble in slot `i`. -/
theorem exec_classOf_store (i : Fin 14) (hi : i ≠ 13) (d : Nibble) (s : State) :
    exec (classOf (BitVec.ofNat 4 (i.val + 1)) d) s = .next (acceptByte i d s) := by
  have cases13 : ∀ j : Fin 14, j ≠ 13 → j = 0 ∨ j = 1 ∨ j = 2 ∨ j = 3 ∨ j = 4 ∨ j = 5 ∨ j = 6 ∨
      j = 7 ∨ j = 8 ∨ j = 9 ∨ j = 10 ∨ j = 11 ∨ j = 12 := by decide
  rcases cases13 i hi with rfl | rfl | rfl | rfl | rfl | rfl | rfl | rfl | rfl | rfl | rfl | rfl |
    rfl <;> rfl

/-- A byte with tag `i + 1`, 1 to 13, stores its nibble in slot `i` (20_memory R22). -/
theorem exec_nonTerminal {b : Byte} {i : Fin 14} (hi : i ≠ 13) (hb : (tagOf b).toNat = i.val + 1)
    (s : State) : exec (decodeByte b) s = .next (acceptByte i (dataOf b) s) := by
  have ht : tagOf b = BitVec.ofNat 4 (i.val + 1) := by
    apply BitVec.eq_of_toNat_eq
    have := i.isLt
    rw [hb, BitVec.toNat_ofNat]
    omega
  have hz : b ≠ 0x00#8 := ne_zero_of_tagOf fun h0 => by
    rw [h0] at hb
    exact absurd hb (by simp)
  rw [decodeByte, if_neg hz, ht]
  exact exec_classOf_store i hi _ s

/-- A byte with tag 14 is the terminal byte. -/
theorem exec_terminal {b : Byte} (hb : tagOf b = Config.terminalTag) (s : State) :
    exec (decodeByte b) s = .next (acceptTerminal (dataOf b) s) := by
  have hz : b ≠ 0x00#8 := ne_zero_of_tagOf (by rw [hb]; decide)
  rw [decodeByte, if_neg hz, hb]
  rfl

/-- A step with a presented byte runs its class. -/
theorem step_presented {s : State} {b : Byte} {rest : List Input}
    (h : s.input = .cycle false true b :: rest) :
    step s = exec (decodeByte b) { s with input := rest, taken := s.taken + 1 } := by
  unfold step fetch
  rw [h]
  rfl

/-- One step of a run. -/
theorem run_succ {s t : State} (n : Nat) (h : step s = .next t) :
    Host.Core.run Sys2Proof.core (n + 1) s = Host.Core.run Sys2Proof.core n t := by
  simp only [Host.Core.run]
  rw [show Sys2Proof.core.step s = .next t from h]

/-- A non-terminal byte does not look at what the environment presents. -/
theorem acceptByte_withInput (i : Fin 14) (d : Nibble) (s : State) (inp : List Input) :
    acceptByte i d { s with input := inp } = { acceptByte i d s with input := inp } := by
  by_cases h : s.cnt = 15#4
  · rw [acceptByte_of_full (s := { s with input := inp }) i d h, acceptByte_of_full i d h]
    rfl
  · rw [acceptByte_of_ne (s := { s with input := inp }) i d h, acceptByte_of_ne i d h]

/-- Neither does a terminal byte. -/
theorem acceptTerminal_withInput (d : Nibble) (s : State) (inp : List Input) :
    acceptTerminal d { s with input := inp } = { acceptTerminal d s with input := inp } := by
  by_cases h : s.cnt.toNat < 12
  · rw [acceptTerminal_of_lt (s := { s with input := inp }) d h, acceptTerminal_of_lt d h]
    rfl
  · by_cases hc : s.cnt = 15#4 ∧ s.cfg.term16Completes = false
    · rw [acceptTerminal_of_full (s := { s with input := inp }) d hc.1 hc.2,
        acceptTerminal_of_full d hc.1 hc.2]
      rfl
    · have h16 : s.cnt = 15#4 → s.cfg.term16Completes = true := fun h15 => by
        have := fun hf => hc ⟨h15, hf⟩
        simpa using this
      rw [acceptTerminal_of_le (s := { s with input := inp }) d (Nat.not_lt.mp h) h16,
        acceptTerminal_of_le d (Nat.not_lt.mp h) h16]
      rfl

/-- No meaning looks at what the environment presents. -/
theorem exec_withInput {i : Instr} {s t : State} (inp : List Input) (h : exec i s = .next t) :
    exec i { s with input := inp } = .next { t with input := inp } := by
  cases i <;> cases h <;>
    first
    | rfl
    | exact congrArg Host.Outcome.next (acceptByte_withInput _ _ s inp)
    | exact congrArg Host.Outcome.next (acceptTerminal_withInput _ s inp)

/-- No meaning changes what the environment presents, the parameters, or the index of the byte. -/
theorem exec_environment {i : Instr} {s t : State} (h : exec i s = .next t) :
    t.input = s.input ∧ t.tableFrame = s.tableFrame ∧ t.cfg = s.cfg ∧ t.taken = s.taken := by
  obtain ⟨t', ht', hr⟩ := exec_result i s
  rw [h] at ht'
  cases ht'
  obtain ⟨e, -, rfl⟩ | ⟨i, d, -, -, rfl⟩ | ⟨o, -, rfl⟩ := hr <;> exact ⟨rfl, rfl, rfl, rfl⟩

theorem runBytes_nil (s : State) : runBytes [] s = .next s := rfl

/-- A run over `b :: bs` is a step with `b` and a run over `bs`. -/
theorem runBytes_cons {s t : State} (b : Byte) (bs : List Byte)
    (h : exec (decodeByte b) { s with taken := s.taken + 1 } = .next t) :
    runBytes (b :: bs) s = runBytes bs t := by
  have hs := step_presented (s := s.presenting (b :: bs)) (b := b)
    (rest := (s.presenting bs).input) rfl
  have hx := exec_withInput (s.presenting bs).input h
  have hi : t.input = s.input := (exec_environment h).1
  have hn : step (s.presenting (b :: bs)) = .next (t.presenting bs) := by
    rw [hs]
    refine hx.trans ?_
    simp only [State.presenting, hi]
  exact run_succ _ hn

end Sys2Proof.Machine
end

