-- ==== Sys2Proof/Laws/Tables.lean ====
section
/-! SUPPORT. The constant tables: the default DigitTable is admissible; what a look-up in a table in canonical
form finds (spec/41_digit_decoder.md rules R87, R100). -/

namespace Sys2Proof.Machine

/-- The default DigitTable is in canonical form and admissible. -/
theorem defaultLut_admissible : lutAdmissible defaultLut := by decide

/-- In a table whose codes are distinct, an entry is what its code finds. -/
theorem lookUp_of_mem {lut : DigitLut} {c : SegCode} {g : Glyph}
    (hs : (lut.map Prod.fst).Pairwise (· ≠ ·)) (h : (c, g) ∈ lut) : lookUp lut c = .glyph g := by
  induction lut with
  | nil => cases h
  | cons e rest ih =>
    rw [List.map_cons, List.pairwise_cons] at hs
    rcases List.mem_cons.mp h with rfl | hr
    · simp [lookUp]
    · have hne : e.1 ≠ c := hs.1 c (List.mem_map.mpr ⟨(c, g), hr, rfl⟩)
      have := ih hs.2 hr
      simpa [lookUp, List.find?_cons, hne] using this

/-- What a look-up finds is an entry. -/
theorem mem_of_lookUp {lut : DigitLut} {c : SegCode} {g : Glyph} (h : lookUp lut c = .glyph g) :
    (c, g) ∈ lut := by
  unfold lookUp at h
  split at h
  · next e he =>
    have hm := List.mem_of_find?_eq_some he
    have hc := List.find?_some he
    simp only [beq_iff_eq] at hc
    cases h
    exact hc ▸ hm
  · cases h

/-- Canonical form gives distinct codes. -/
theorem lutAdmissible.codes_distinct {lut : DigitLut} (h : lutAdmissible lut) :
    (lut.map Prod.fst).Pairwise (· ≠ ·) :=
  h.1.imp fun hab => BitVec.ne_of_lt hab

end Sys2Proof.Machine
end

