-- ==== Sys2Proof/Certificates/Slice0/Obligations.lean ====
section
/-! DEFINITION. The statements for the provers, from the numbered rules of spec/. -/

open Sys2Proof Sys2Proof.Machine

/-- Words written out from the encodings decode to their instructions. Words written out bit by bit
from 30_encoding R39 and R47, 41_digit_decoder R88, R95, R98 and 42_attribute_mapper R115, R133. -/
def Obligations.SampleWordsDecodeToTheirInstructions : Prop :=
  decode (.byte 0b00000000#8) = some .pwron ∧
  decode (.byte 0b00000101#8) = some (.bad0 0x5#4) ∧
  decode (.byte 0b00010110#8) = some (.st1 0x6#4) ∧
  decode (.byte 0b00100111#8) = some (.st2 0x7#4) ∧
  decode (.byte 0b00111101#8) = some (.st3 0xD#4) ∧
  decode (.byte 0b11010000#8) = some (.st13 0x0#4) ∧
  decode (.byte 0b11101000#8) = some (.term 0x8#4) ∧
  decode (.byte 0b11110111#8) = some (.badF 0x7#4) ∧
  decode (.segCode 0b1111101#7) = some .digit0 ∧
  decode (.segCode 0b0010101#7) = some .digit7 ∧
  decode (.segCode 0b1101000#7) = some .digitOverflow ∧
  decode (.attrMask 0x000020#24) = some .kilo ∧
  decode (.attrMask 0x800000#24) = some .unknownE8

/-- Which class a byte is in, as bit patterns; PWRON before BAD0. Decoding is total and ordered
(30_encoding R40). -/
def Obligations.BytePatternsSelectTheClass : Prop :=
  ∀ b : Byte,
    (decodeByte b = .pwron ↔ b &&& 0xFF#8 = 0x00#8) ∧
    (decodeByte b = .bad0 (dataOf b) ↔ b &&& 0xF0#8 = 0x00#8 ∧ b ≠ 0x00#8) ∧
    (b &&& 0xF0#8 = 0x00#8 ∧ b ≠ 0x00#8 ↔ b &&& 0xF8#8 = 0x08#8 ∨ b &&& 0xFC#8 = 0x04#8 ∨
      b &&& 0xFE#8 = 0x02#8 ∨ b = 0x01#8) ∧
    (decodeByte b = .st1 (dataOf b) ↔ b &&& 0xF0#8 = 0x10#8) ∧
    (decodeByte b = .st2 (dataOf b) ↔ b &&& 0xF0#8 = 0x20#8) ∧
    (decodeByte b = .st3 (dataOf b) ↔ b &&& 0xF0#8 = 0x30#8) ∧
    (decodeByte b = .st4 (dataOf b) ↔ b &&& 0xF0#8 = 0x40#8) ∧
    (decodeByte b = .st5 (dataOf b) ↔ b &&& 0xF0#8 = 0x50#8) ∧
    (decodeByte b = .st6 (dataOf b) ↔ b &&& 0xF0#8 = 0x60#8) ∧
    (decodeByte b = .st7 (dataOf b) ↔ b &&& 0xF0#8 = 0x70#8) ∧
    (decodeByte b = .st8 (dataOf b) ↔ b &&& 0xF0#8 = 0x80#8) ∧
    (decodeByte b = .st9 (dataOf b) ↔ b &&& 0xF0#8 = 0x90#8) ∧
    (decodeByte b = .st10 (dataOf b) ↔ b &&& 0xF0#8 = 0xA0#8) ∧
    (decodeByte b = .st11 (dataOf b) ↔ b &&& 0xF0#8 = 0xB0#8) ∧
    (decodeByte b = .st12 (dataOf b) ↔ b &&& 0xF0#8 = 0xC0#8) ∧
    (decodeByte b = .st13 (dataOf b) ↔ b &&& 0xF0#8 = 0xD0#8) ∧
    (decodeByte b = .term (dataOf b) ↔ b &&& 0xF0#8 = 0xE0#8) ∧
    (decodeByte b = .badF (dataOf b) ↔ b &&& 0xF0#8 = 0xF0#8) ∧
    dataOf b = b.extractLsb' 0 4

/-- Decoding the word of any well-formed instruction gives it back. The encoder of 30_encoding R47,
41_digit_decoder R88 to R99 and 42_attribute_mapper R110 to R133 loses no bit. -/
def Obligations.DecodeInvertsEncode : Prop :=
  ∀ i : Instr, i.wf = true → decode (encode i) = some i

/-- Whatever a word decodes to is well formed and encodes back to that word. The other direction:
the rows of one format do not overlap (30_encoding R39, R40). -/
def Obligations.EncodeInvertsDecode : Prop :=
  ∀ (w : Word) (i : Instr), decode w = some i → i.wf = true ∧ encode i = w

/-- A step with a presented byte runs the class the byte decodes to. One step per byte, taken with
in_valid = 1 (43_reading_assembly R143); the count of bytes is the model's (log entry 2). -/
def Obligations.StepRunsThePresentedByte : Prop :=
  ∀ (s : State) (b : Byte) (rest : List Input), s.input = .cycle false true b :: rest →
    ∃ i : Instr, decode (.byte b) = some i ∧ i.wf = true ∧ i.isByteClass = true ∧
      step s = exec i { s with input := rest, taken := s.taken + 1 }

/-- A step with a table word runs its row, or reads the table at a word without a row (the model's
own input, log entries 6, 7, 20). The model's choice of how a table row comes to run, and on
which frame: log entries 6, 7 and 20. -/
def Obligations.StepRunsTheTableWord : Prop :=
  ∀ (s : State) (c : SegCode) (m : AttrMask) (f : Frame) (rest : List Input),
    (s.input = .segCode c f :: rest →
      (∀ i, decode (.segCode c) = some i →
        step s = exec i { s with input := rest, tableFrame := f }) ∧
      (decode (.segCode c) = none → step s = .next { s with
        input := rest
        tableFrame := f
        out := .digitEntry c (lookUp s.cfg.digitLut c) (digitsShowing f c) })) ∧
    (s.input = .attrMask m f :: rest →
      (∀ i, decode (.attrMask m) = some i →
        step s = exec i { s with input := rest, tableFrame := f }) ∧
      (decode (.attrMask m) = none → step s = .next { s with
        input := rest
        tableFrame := f
        out := .lanes m (attrOf f &&& m) }))

/-- A table word placed by withFetchWord is what the very next step runs (log entries 1, 8). The
model's own interface to the host's numbering of table words: log entries 1 and 8. -/
def Obligations.WithFetchWordRunsTheInstruction : Prop :=
  ∀ (s : State) (nbits w : Nat) (i : Instr), decodeTableWord nbits w = some i →
    step (s.withFetchWord nbits w) =
      exec i (if i.isByteClass then { s with taken := s.taken + 1 } else s)

/-- A cycle with rst = 1 gives CLEAN; the byte is lost and no event is emitted. The reset input
(70_reset R161), which the spec marks as its own decision D2; that trace and taken go on is the
model's choice (log entry 9). -/
def Obligations.ResetCycleGivesClean : Prop :=
  ∀ (s : State) (v : Bool) (b : Byte) (rest : List Input), s.input = .cycle true v b :: rest →
    step s = .next { s with cnt := 0#4, frame := Frame.zero, input := rest, out := .idle } ∧
      Output.idle.evCode = 0#3

/-- Without a byte the state holds for any length of time and no event is emitted. The state holds
(40_frame_assembler R76), which the spec marks as its own decision D3; the empty input list is
the model's (log entry 10). -/
def Obligations.NothingHappensWithoutAByte : Prop :=
  ∀ s : State,
    (∀ n : Nat, s.input = [] → Host.Core.run core (n + 1) s = .next { s with out := .idle }) ∧
    (∀ (bs : List Byte) (rest : List Input), bs ≠ [] →
      s.input = bs.map (fun b => Input.cycle false false b) ++ rest →
      Host.Core.run core bs.length s = .next { s with input := rest, out := .idle })

/-- After reset the state is CLEAN and the outputs show no event. Reset values (10_state R19,
70_reset R159): zero at the start of every attempt is the source's, that reset leaves that state
is the spec's own decision D2; out is a field of the model's (log entry 15). -/
def Obligations.StateAfterReset : Prop :=
  State.reset.cnt = 0#4 ∧ (∀ i : Fin 14, State.reset.frame[i] = 0#4) ∧
    State.reset.out.evCode = 0#3 ∧ State.reset.out.evValid = false

/-- No step ends in a fault or a refusal. The step is total for every byte (40_frame_assembler R49)
and no error is fatal (60_exceptions R156); that the block has no fault and no refusal is
DEDUCED (log entry 13); that a step with an empty input answers a next state is the model's
choice (log entry 10), as are the steps with a table word (log entries 6, 7). -/
def Obligations.StepNeverStops : Prop :=
  ∀ s : State, ∃ t : State, step s = .next t

/-- A step consumes one input, counts a byte it is taken with, and changes no parameter. The tables
are the same at every step of a run (20_memory R36); bytes are consumed once, in order
(43_reading_assembly R135); the count of bytes is the model's (log entry 2). -/
def Obligations.StepConsumesInputAndKeepsTheParameters : Prop :=
  ∀ s t : State, step s = .next t →
    t.cfg = s.cfg ∧ t.input = s.input.tail ∧
      t.taken = match s.input.head? with
        | some (.cycle false true _) => s.taken + 1
        | _ => s.taken

/-- PWRON: a zero byte gives PowerOn and CLEAN in every state. `PWRON` (40_frame_assembler R51). -/
def Obligations.PowerOnInEveryState : Prop :=
  (∀ b : Byte, decodeByte b = .pwron ↔ b = 0x00#8) ∧
  (∀ b : Byte, Accepted b → b ≠ 0x00#8) ∧
  ∀ s : State, exec .pwron s = .next { s with
    cnt := 0#4
    frame := Frame.zero
    out := .event .powerOn
    trace := s.trace ++ [(s.taken, .powerOn)] }

/-- BAD0 and BADF: a byte with tag 0 or 15 gives FramingError(invalid_tag) and CLEAN in every state.
`BAD0` and `BADF` (40_frame_assembler R52, R53). -/
def Obligations.InvalidTagInEveryState : Prop :=
  (∀ b : Byte, (∃ d, decodeByte b = .bad0 d) ↔ 0x01#8 ≤ b ∧ b ≤ 0x0F#8) ∧
  (∀ b : Byte, (∃ d, decodeByte b = .badF d) ↔ 0xF0#8 ≤ b) ∧
  ∀ (s : State) (d : Nibble), ∀ i ∈ [Instr.bad0 d, Instr.badF d], exec i s = .next { s with
    cnt := 0#4
    frame := Frame.zero
    out := .event (.framingError .invalidTag)
    trace := s.trace ++ [(s.taken, .framingError .invalidTag)] }

/-- ST2 to ST9: store the nibble in slot tag-1, count one, change nothing else. The store classes of
the digit slots (40_frame_assembler R54, R57, R60 to R67). -/
def Obligations.DigitSlotStores : Prop :=
  ∀ (s : State) (d : Nibble), s.cnt.toNat < 15 → ∀ p ∈ (
      [(.st2 d, 1), (.st3 d, 2), (.st4 d, 3), (.st5 d, 4),
       (.st6 d, 5), (.st7 d, 6), (.st8 d, 7), (.st9 d, 8)] : List (Instr × Fin 14)),
    ∃ t : State, exec p.1 s = .next t ∧
      t.frame[p.2] = d ∧ (∀ j : Fin 14, j ≠ p.2 → t.frame[j] = s.frame[j]) ∧
      t.cnt.toNat = s.cnt.toNat + 1 ∧ t.out = .idle ∧
      t.cfg = s.cfg ∧ t.input = s.input ∧ t.tableFrame = s.tableFrame ∧ t.taken = s.taken ∧
      t.trace = s.trace

/-- ST1 and ST10 to ST13: store the nibble in slot tag-1, count one, change nothing else. The store
classes of the attribute slots (40_frame_assembler R54, R57, R59, R68 to R71). -/
def Obligations.AttributeSlotStores : Prop :=
  ∀ (s : State) (d : Nibble), s.cnt.toNat < 15 → ∀ p ∈ (
      [(.st1 d, 0), (.st10 d, 9), (.st11 d, 10), (.st12 d, 11),
       (.st13 d, 12)] : List (Instr × Fin 14)),
    ∃ t : State, exec p.1 s = .next t ∧
      t.frame[p.2] = d ∧ (∀ j : Fin 14, j ≠ p.2 → t.frame[j] = s.frame[j]) ∧
      t.cnt.toNat = s.cnt.toNat + 1 ∧ t.out = .idle ∧
      t.cfg = s.cfg ∧ t.input = s.input ∧ t.tableFrame = s.tableFrame ∧ t.taken = s.taken ∧
      t.trace = s.trace

/-- ST1 to ST13 as the 16th accepted byte give FramingError(frame_too_long) and CLEAN. Too long
(40_frame_assembler R58, 60_exceptions R148). -/
def Obligations.SixteenthByteIsTooLong : Prop :=
  ∀ (s : State) (d : Nibble), ∀ i ∈ [Instr.st1 d, .st2 d, .st3 d, .st4 d, .st5 d, .st6 d, .st7 d,
      .st8 d, .st9 d, .st10 d, .st11 d, .st12 d, .st13 d],
    (s.cnt = 15#4 → exec i s = .next { s with
      cnt := 0#4
      frame := Frame.zero
      out := .event (.framingError .frameTooLong)
      trace := s.trace ++ [(s.taken, .framingError .frameTooLong)] }) ∧
    (∀ (t : State) (e : Event), exec i s = .next t → t.out = .event e →
      s.cnt = 15#4 ∧ e = .framingError .frameTooLong)

/-- TERM: short frame below 13 bytes, CompleteFrame from 13 on, CLEAN either way. The terminal byte
(40_frame_assembler R72), from every state up to cnt = 14 whatever the parameter; the case cnt =
15 is decision D6, the spec's own (00_scope R6, 40_frame_assembler R58; log entry 5), and
TerminalByteAsSixteenth has it under both values. -/
def Obligations.TerminalByteEndsTheAttempt : Prop :=
  (∀ b : Byte, (∃ d, decodeByte b = .term d) ↔ 0xE0#8 ≤ b ∧ b ≤ 0xEF#8) ∧
  ∀ (s : State) (d : Nibble),
    (s.cnt.toNat ≤ 11 → exec (.term d) s = .next { s with
      cnt := 0#4
      frame := Frame.zero
      out := .event (.framingError .shortFrame)
      trace := s.trace ++ [(s.taken, .framingError .shortFrame)] }) ∧
    (12 ≤ s.cnt.toNat → (s.cnt = 15#4 → s.cfg.term16Completes = true) →
      let f := s.frame.set 13 d
      let e := Event.completeFrame f (readingOf s.cfg.digitLut f)
      exec (.term d) s = .next { s with
        cnt := 0#4
        frame := Frame.zero
        out := .event e
        trace := s.trace ++ [(s.taken, e)] } ∧
      (readingOf s.cfg.digitLut f).attr.extractLsb' 20 4 = d)

/-- TERM as the 16th accepted byte under both values of TERM16_COMPLETES. Decision D6 as a parameter
(40_frame_assembler R58; log entry 5). -/
def Obligations.TerminalByteAsSixteenth : Prop :=
  ∀ (s : State) (d : Nibble), s.cnt = 15#4 →
    let f := s.frame.set 13 d
    let e := if s.cfg.term16Completes then Event.completeFrame f (readingOf s.cfg.digitLut f)
      else .framingError .frameTooLong
    exec (.term d) s = .next { s with
      cnt := 0#4
      frame := Frame.zero
      out := .event e
      trace := s.trace ++ [(s.taken, e)] }

/-- The event code of every byte at every count: the order of the tests. Zero byte first, tag range
second, terminal tag before length (40_frame_assembler R50, 60_exceptions R153); the exhaustive
check of 95_test_vectors T-F. The numbers of ev_code are decision D4, the spec's own (log entry
12); that the terminal test comes before the length test is decision D6, the spec's own and a
parameter (log entry 5). -/
def Obligations.EventOfEveryByteAndCount : Prop :=
  ∀ (s : State) (b : Byte), ∃ t : State, exec (decodeByte b) s = .next t ∧
    t.out.evCode =
      if b = 0x00#8 then 2#3
      else if tagOf b = 0#4 ∨ tagOf b = 15#4 then 4#3
      else if tagOf b = 14#4 then
        if s.cnt.toNat ≤ 11 then 5#3
        else if s.cnt = 15#4 ∧ s.cfg.term16Completes = false then 6#3
        else 1#3
      else if s.cnt = 15#4 then 6#3
      else 0#3

/-- Every event sets the state to CLEAN in its own step and saves nothing. Entry: what emitting an
event does to the block (60_exceptions R154). -/
def Obligations.EveryEventLeavesClean : Prop :=
  ∀ (i : Instr) (s t : State) (e : Event), exec i s = .next t → t.out = .event e →
    t = { s with
      cnt := 0#4
      frame := Frame.zero
      out := .event e
      trace := s.trace ++ [(s.taken, e)] }

/-- The DigitTable entries and attribute lanes write no state and emit no event. Reads by the
Decoder have no side effects (20_memory R25, R31); that a row runs alone is the model's choice
(log entries 6, 7, 20). -/
def Obligations.TableRowsLeaveTheBlockAlone : Prop :=
  ∀ (i : Instr) (s : State), i.isByteClass = false → ∃ t : State, exec i s = .next t ∧
    t.cnt = s.cnt ∧ (∀ j : Fin 14, t.frame[j] = s.frame[j]) ∧ t.cfg = s.cfg ∧
    t.input = s.input ∧ t.tableFrame = s.tableFrame ∧ t.taken = s.taken ∧ t.trace = s.trace ∧
    t.out.evCode = 0#3

/-- Every step keeps the invariant of the reachable states. 10_state R20 (b), (c), (d), from every
state that meets it. -/
def Obligations.StepKeepsTheFrameInvariant : Prop :=
  ∀ s t : State, FrameInv s → step s = .next t → FrameInv t

/-- Every step keeps the trace a trace: rising byte indices, and every CompleteFrame with its own
Reading. Events are delivered in order, none changed later (43_reading_assembly R136, R137,
R141); the trace is a field of the model's (log entry 2). -/
def Obligations.StepKeepsTheTraceInvariant : Prop :=
  ∀ s t : State, TraceInv s → step s = .next t → TraceInv t

/-- The reset state meets the invariants and its DigitTable is admissible. 10_state R19, R20;
41_digit_decoder R100. That reset leaves CLEAN is decision D2, TERM16_COMPLETES = true is
00_scope R6 by decision D6 (log entry 5), the default table is decision D9 (log entry 4), all
the spec's own; the empty trace and the count of no byte, on which the trace invariant rests,
are the model's reset values (log entry 15). -/
def Obligations.ResetMeetsTheInvariants : Prop :=
  State.reset.IsClean ∧ FrameInv State.reset ∧ TraceInv State.reset ∧
    lutAdmissible State.reset.cfg.digitLut ∧ State.reset.cfg.term16Completes = true

/-- A step delivers exactly the event it presents, with the index of its byte, or nothing. None is
merged, delayed or dropped (43_reading_assembly R136); a step emits at most one event
(60_exceptions R144). -/
def Obligations.TraceRecordsTheEventOfEachStep : Prop :=
  ∀ s t : State, step s = .next t →
    (∃ e : Event, t.out = .event e ∧ t.taken = s.taken + 1 ∧
      t.trace = s.trace ++ [(t.taken, e)]) ∨
    ((∀ e : Event, t.out ≠ .event e) ∧ t.trace = s.trace)

/-- What a run does depends on cnt, the frame, the parameters and the input alone. The architectural
state is exactly cnt and frame, and nothing of an attempt survives elsewhere (10_state R8, R17). -/
def Obligations.NoHiddenState : Prop :=
  ∀ (n : Nat) (s s' t t' : State), s.cnt = s'.cnt → s.frame = s'.frame → s.cfg = s'.cfg →
    s.input = s'.input → Host.Core.run core n s = .next t → Host.Core.run core n s' = .next t' →
    t.cnt = t'.cnt ∧ t.frame = t'.frame ∧ t.cfg = t'.cfg ∧ t.input = t'.input ∧
      (0 < n → t.out = t'.out) ∧
      ∃ es : List Event, t.trace.map Prod.snd = s.trace.map Prod.snd ++ es ∧
        t'.trace.map Prod.snd = s'.trace.map Prod.snd ++ es

/-- From CLEAN, up to 15 non-terminal bytes leave in each slot the last nibble of its tag, and cnt
their number. 10_state R20 (e) and duplicate tags (40_frame_assembler R55), for every byte list. -/
def Obligations.AcceptedBytesAssembleTheFrame : Prop :=
  ∀ (s : State) (bs : List Byte), s.IsClean → bs.length ≤ 15 → (∀ b ∈ bs, NonTerminal b) →
    runBytes bs s = .next { s with
      cnt := BitVec.ofNat 4 bs.length
      frame := frameAfter bs
      taken := s.taken + bs.length
      out := if bs = [] then s.out else .idle }

/-- How an attempt from CLEAN ends: short, complete or too long, by the number of accepted bytes
alone. Completeness is checked by count, not by the set of tags (30_encoding R46,
40_frame_assembler R77, 70_reset R165). What a terminal byte does after 15 accepted bytes is
decision D6, the spec's own choice and the parameter TERM16_COMPLETES (00_scope R6,
40_frame_assembler R58; log entry 5): both of its values are stated. -/
def Obligations.AttemptEndsByItsCount : Prop :=
  ∀ (s : State) (bs : List Byte) (d : Nibble), s.IsClean → bs.length ≤ 15 →
    (∀ b ∈ bs, NonTerminal b) →
    let s' : State := { s with taken := s.taken + bs.length + 1 }
    let f := (frameAfter bs).set 13 d
    (bs.length ≤ 11 → runBytes (bs ++ [byteOf 14#4 d]) s =
      .next (s'.afterEvent (.framingError .shortFrame))) ∧
    (12 ≤ bs.length → (bs.length = 15 → s.cfg.term16Completes = true) →
      runBytes (bs ++ [byteOf 14#4 d]) s =
        .next (s'.afterEvent (.completeFrame f (readingOf s.cfg.digitLut f)))) ∧
    (bs.length = 15 → s.cfg.term16Completes = false → runBytes (bs ++ [byteOf 14#4 d]) s =
      .next (s'.afterEvent (.framingError .frameTooLong))) ∧
    (bs.length = 15 → ∀ b : Byte, NonTerminal b →
      runBytes (bs ++ [b]) s = .next (s'.afterEvent (.framingError .frameTooLong)))

/-- 13 or 14 bytes with distinct valid tags, tag 14 last, give exactly one CompleteFrame holding
their nibbles. The source's first testable property (95_test_vectors S4; 40_frame_assembler
R74). -/
def Obligations.DistinctTagsCompleteTheFrame : Prop :=
  ∀ (s : State) (bs : List Byte), s.IsClean → (bs.length = 13 ∨ bs.length = 14) →
    (bs.map tagOf).Nodup → (∀ b ∈ bs, Accepted b) →
    (∃ b : Byte, bs.getLast? = some b ∧ tagOf b = 14#4) →
    ∃ f : Frame, runBytes bs s = .next (({ s with taken := s.taken + bs.length } : State).afterEvent
        (.completeFrame f (readingOf s.cfg.digitLut f))) ∧
      (∀ b ∈ bs, ∀ i : Fin 14, (tagOf b).toNat = i.val + 1 → f[i] = dataOf b) ∧
      (∀ i : Fin 14, (∀ b ∈ bs, (tagOf b).toNat ≠ i.val + 1) → f[i] = 0#4)

/-- Bytes with distinct tags 1 to 13 assemble the same frame in any order of arrival. Routing is by
tag (40_frame_assembler R56). -/
def Obligations.ArrivalOrderDoesNotMatter : Prop :=
  ∀ (s : State) (bs bs' : List Byte), s.IsClean → bs.Perm bs' → (bs.map tagOf).Nodup →
    (∀ b ∈ bs, NonTerminal b) →
    ∃ t : State, runBytes bs s = .next t ∧ runBytes bs' s = .next t

/-- No 16 bytes in a row are free of events, from any state. Every attempt ends within 16 accepted
bytes (40_frame_assembler R77). -/
def Obligations.SixteenBytesGiveAnEvent : Prop :=
  ∀ (s : State) (bs : List Byte), bs.length = 16 →
    ∃ t : State, runBytes bs s = .next t ∧ s.trace.length < t.trace.length

/-- FRAME14 gives CompleteFrame of its nibbles; FRAME13 the same with slot 0 at 0. The pseudo-
instructions of 30_encoding R48, the optional leading byte of R46. -/
def Obligations.WholePacketsAreComplete : Prop :=
  ∀ (s : State) (f : Frame), s.IsClean →
    runBytes (frame14 f) s = .next (({ s with taken := s.taken + 14 } : State).afterEvent
      (.completeFrame f (readingOf s.cfg.digitLut f))) ∧
    runBytes (frame13 f) s = .next (({ s with taken := s.taken + 13 } : State).afterEvent
      (.completeFrame (f.set 0 0#4) (readingOf s.cfg.digitLut (f.set 0 0#4))))

/-- The Reading of a frame, field by field. `decode(frame)` (43_reading_assembly R138); digit k and
gap g of the spec at index k-1 and g-1 (log entry 17). -/
def Obligations.ReadingIsDecode : Prop :=
  ∀ (lut : DigitLut) (f : Frame),
    let r := readingOf lut f
    (∀ k : Fin 4,
      r.seg[k] = f[2 * k.val + 1].extractLsb' 0 3 ++ f[2 * k.val + 2] ∧
      r.sym[k] = lookUp lut r.seg[k] ∧ (r.inv[k] = true ↔ r.sym[k] = .invalid)) ∧
    (r.anyInvalid = true ↔ ∃ k : Fin 4, r.inv[k] = true) ∧
    r.sign = f[1].getLsbD 3 ∧
    (∀ g : Fin 3, r.dp[g] = f[2 * g.val + 3].getLsbD 3) ∧
    (∀ n : Fin 24, (laneSlot n).val = (if n.val < 4 then 0 else n.val / 4 + 8) ∧
      r.attr.getLsbD n.val = f[laneSlot n].getLsbD (n.val % 4))

/-- The segment code is ((byte1 & 7) << 4) | byte2, and bit 3 of byte1 has no influence. Segment
code (41_digit_decoder R86). -/
def Obligations.SegmentCodeFormula : Prop :=
  ∀ (lut : DigitLut) (f : Frame) (k : Fin 4) (byte1 byte2 : Nibble),
    segCodeOf byte1 byte2 = ((byte1 &&& 0x7#4).setWidth 7 <<< 4) ||| byte2.setWidth 7 ∧
    segCodeOf byte1 byte2 = byte1.extractLsb' 0 3 ++ byte2.extractLsb' 0 4 ∧
    segCodeOf (byte1 ^^^ 0x8#4) byte2 = segCodeOf byte1 byte2 ∧
    decodeDigit lut (byte1 ^^^ 0x8#4) byte2 = decodeDigit lut byte1 byte2 ∧
    segOf f k = segCodeOf f[2 * k.val + 1] f[2 * k.val + 2] ∧
    segCodeOf 0x9#4 0x5#4 = 0x15#7

/-- A look-up gives the entry's symbol, and INVALID exactly on a miss. Look-up (41_digit_decoder
R87). -/
def Obligations.LookUpFindsEntriesOnly : Prop :=
  ∀ lut : DigitLut, lutAdmissible lut →
    (∀ (c : SegCode) (g : Glyph), lookUp lut c = .glyph g ↔ (c, g) ∈ lut) ∧
    (∀ c : SegCode, lookUp lut c = .invalid ↔ ∀ g : Glyph, (c, g) ∉ lut) ∧
    (∀ (f : Frame) (k : Fin 4), (readingOf lut f).sym[k] = lookUp lut (segOf f k) ∧
      ((readingOf lut f).inv[k] = true ↔ (readingOf lut f).sym[k] = .invalid))

/-- Code 0x7D is the digit 0 and code 0x05 the digit 1 in every admissible DigitTable. The two
entries the source prints (41_digit_decoder R88, R89). -/
def Obligations.SourceFixedCodes : Prop :=
  ∀ lut : DigitLut, lutAdmissible lut →
    segCodeOf 0x7#4 0xD#4 = 0x7D#7 ∧ lookUp lut 0x7D#7 = .glyph (.digit 0) ∧
    decodeDigit lut 0x7#4 0xD#4 = .glyph (.digit 0) ∧
    segCodeOf 0x0#4 0x5#4 = 0x05#7 ∧ lookUp lut 0x05#7 = .glyph (.digit 1) ∧
    decodeDigit lut 0x0#4 0x5#4 = .glyph (.digit 1)

/-- In every admissible DigitTable exactly 12 of the 128 codes map, one to each symbol. 20_memory
R23; 41_digit_decoder R100 (a), (b). -/
def Obligations.TwelveCodesMapOntoTheSymbols : Prop :=
  ∀ lut : DigitLut, lutAdmissible lut →
    (∀ g : Glyph, ∃ c : SegCode, lookUp lut c = .glyph g ∧
      ∀ c' : SegCode, lookUp lut c' = .glyph g → c' = c) ∧
    (List.finRange 128).countP (fun n => lookUp lut (BitVec.ofFin n) == .invalid) = 116

/-- Digits, sign and decimal points depend on their own frame bits alone. Purity (41_digit_decoder
R105); the Decoder is a function of the table and the frame, so cnt, earlier frames and the
order of arrival cannot enter. -/
def Obligations.DigitPartReadsOnlyItsBits : Prop :=
  ∀ (lut : DigitLut) (f f' : Frame),
    (∀ k : Fin 4, f[2 * k.val + 1].extractLsb' 0 3 = f'[2 * k.val + 1].extractLsb' 0 3 →
      f[2 * k.val + 2] = f'[2 * k.val + 2] →
      (readingOf lut f).seg[k] = (readingOf lut f').seg[k] ∧
      (readingOf lut f).sym[k] = (readingOf lut f').sym[k] ∧
      (readingOf lut f).inv[k] = (readingOf lut f').inv[k]) ∧
    (f[1].getLsbD 3 = f'[1].getLsbD 3 → (readingOf lut f).sign = (readingOf lut f').sign) ∧
    (∀ g : Fin 3, f[2 * g.val + 3].getLsbD 3 = f'[2 * g.val + 3].getLsbD 3 →
      (readingOf lut f).dp[g] = (readingOf lut f').dp[g])

/-- The 24 bits of slots 0 and 9 to 13 and the 24 lanes correspond one to one. 42_attribute_mapper
R107, R134; the source's property S9. -/
def Obligations.AttributeBitsAreABijection : Prop :=
  (∀ (f : Frame) (n : Fin 24),
    attrOf (f.set (laneSlot n).val (f[laneSlot n] ^^^ BitVec.twoPow 4 (laneBit n))
      (laneSlot n).isLt) = attrOf f ^^^ laneMask n) ∧
  (∀ (f : Frame) (i : Fin 14) (d : Nibble), 1 ≤ i.val → i.val ≤ 8 →
    attrOf (f.set i.val d i.isLt) = attrOf f) ∧
  (∀ (lut : DigitLut) (f : Frame) (n : Fin 24) (d : Nibble),
    let r := readingOf lut f
    let r' := readingOf lut (f.set (laneSlot n).val d (laneSlot n).isLt)
    r'.sym = r.sym ∧ r'.seg = r.seg ∧ r'.inv = r.inv ∧ r'.anyInvalid = r.anyInvalid ∧
      r'.sign = r.sign ∧ r'.dp = r.dp) ∧
  (∀ m : AttrMask, ∃ f : Frame, attrOf f = m) ∧
  (∀ (f f' : Frame), attrOf f = attrOf f' → ∀ n : Fin 24, f[laneSlot n] = f'[laneSlot n])

/-- Each DigitTable entry presents its code's symbol and the digits that show it, in any DigitTable
(log entry 6). What an entry row does when it runs alone, and on which frame, is the model's
choice (log entries 6, 20); the look-up is 41_digit_decoder R87. -/
def Obligations.DigitEntriesLookUpTheirCode : Prop :=
  ∀ (s : State), ∀ p ∈ ([
      (.digit0, 0x7D#7), (.digit1, 0x05#7), (.digit2, 0x5B#7), (.digit3, 0x1F#7),
      (.digit4, 0x27#7), (.digit5, 0x3E#7), (.digit6, 0x7E#7), (.digit7, 0x15#7),
      (.digit8, 0x7F#7), (.digit9, 0x3F#7), (.digitOverflow, 0x68#7), (.digitBlank, 0x00#7)] : List (Instr × SegCode)),
    ∃ hits : Vector Bool 4, exec p.1 s = .next { s with
        out := .digitEntry p.2 (lookUp s.cfg.digitLut p.2) hits } ∧
      ∀ k : Fin 4, hits[k] = true ↔ segOf s.tableFrame k = p.2

/-- With the default DigitTable each entry row presents its symbol (eight codes are general
knowledge, log entry 4). The default table (41_digit_decoder R88 to R100): codes 5B, 1F, 3E, 7E,
7F, 3F, 68 and 00 are PRESUMED (log entry 4); that a row runs alone is the model's choice (log
entries 6, 20). -/
def Obligations.DefaultTableEntries : Prop :=
  ∀ (s : State),
    (s.cfg.digitLut = defaultLut → ∀ p ∈ ([
      (.digit0, 0x7D#7, .digit 0), (.digit1, 0x05#7, .digit 1), (.digit2, 0x5B#7, .digit 2),
      (.digit3, 0x1F#7, .digit 3), (.digit4, 0x27#7, .digit 4), (.digit5, 0x3E#7, .digit 5),
      (.digit6, 0x7E#7, .digit 6), (.digit7, 0x15#7, .digit 7), (.digit8, 0x7F#7, .digit 8),
      (.digit9, 0x3F#7, .digit 9), (.digitOverflow, 0x68#7, .overflow), (.digitBlank, 0x00#7, .blank)] : List (Instr × SegCode × Glyph)),
      exec p.1 s = .next { s with
        out := .digitEntry p.2.1 (.glyph p.2.2) (digitsShowing s.tableFrame p.2.1) }) ∧
    (lutAdmissible s.cfg.digitLut → ∀ p ∈ ([
      (.digit0, 0x7D#7, .digit 0), (.digit1, 0x05#7, .digit 1), (.digit4, 0x27#7, .digit 4),
      (.digit7, 0x15#7, .digit 7)] : List (Instr × SegCode × Glyph)),
      exec p.1 s = .next { s with
        out := .digitEntry p.2.1 (.glyph p.2.2) (digitsShowing s.tableFrame p.2.1) })

/-- Each attribute lane presents the bit of its slot (names per decisions D10, D11; log entries 7,
11). 42_attribute_mapper R106, R110 to R133; that a lane row runs alone, and on which frame, is
the model's choice (log entries 7, 20), the names are decisions D10 and D11 (log entry 11). -/
def Obligations.AttributeLanesCopyTheirBit : Prop :=
  ∀ (s : State), ∀ p ∈ ([
      (.unknown11, 0, 0, 0), (.auto, 1, 0, 1), (.dc, 2, 0, 2), (.ac, 3, 0, 3),
      (.diode, 4, 9, 0), (.kilo, 5, 9, 1), (.nano, 6, 9, 2), (.micro, 7, 9, 3),
      (.beep, 8, 10, 0), (.mega, 9, 10, 1), (.percent, 10, 10, 2), (.milli, 11, 10, 3),
      (.hold, 12, 11, 0), (.relDelta, 13, 11, 1), (.ohms, 14, 11, 2), (.farads, 15, 11, 3),
      (.unknownD1, 16, 12, 0), (.hertz, 17, 12, 1), (.volts, 18, 12, 2), (.amps, 19, 12, 3),
      (.unknownE1, 20, 13, 0), (.unknownE2, 21, 13, 1), (.degreesC, 22, 13, 2), (.unknownE8, 23, 13, 3)] : List (Instr × Nat × Fin 14 × Nat)),
    exec p.1 s = .next { s with
      out := .lanes (BitVec.twoPow 24 p.2.1)
        (if s.tableFrame[p.2.2.1].getLsbD p.2.2.2 then BitVec.twoPow 24 p.2.1 else 0#24) }

/-- The Reading of a frame is what the 36 table rows present on it (default DigitTable, log entries
4, 6, 7). The rows read alone and `decode(frame)` agree (43_reading_assembly R138 against
41_digit_decoder R87 and 42_attribute_mapper R106); that the rows run alone is the model's
choice (log entries 6, 7, 20), and eight codes of the table are PRESUMED (log entry 4). -/
def Obligations.TableRowsAssembleTheReading : Prop :=
  ∀ s : State, s.cfg.digitLut = defaultLut →
    let r := readingOf s.cfg.digitLut s.tableFrame
    (∀ (k : Fin 4) (g : Glyph), r.sym[k] = .glyph g ↔
      ∃ (i : Instr) (c : SegCode) (hits : Vector Bool 4),
        exec i s = .next { s with out := .digitEntry c (.glyph g) hits } ∧ hits[k] = true) ∧
    (∀ k : Fin 4, r.sym[k] = .invalid ↔
      ∀ (i : Instr) (c : SegCode) (y : Symbol) (hits : Vector Bool 4),
        exec i s = .next { s with out := .digitEntry c y hits } → hits[k] = false) ∧
    (∀ n : Fin 24, r.attr.getLsbD n.val = true ↔
      ∃ (i : Instr) (m v : AttrMask),
        exec i s = .next { s with out := .lanes m v } ∧ v.getLsbD n.val = true)

/-- The label byte of a lane carries that lane alone, and the names are one to one (log entry 11).
42_attribute_mapper R108, R109; the assignment of names is decisions D10 and D11. -/
def Obligations.LaneLabelsAndNames : Prop :=
  ∀ n : Fin 24,
    (tagOf (laneLabel n)).toNat = (laneSlot n).val + 1 ∧
    dataOf (laneLabel n) = BitVec.twoPow 4 (laneBit n) ∧
    attrOf (Frame.zero.set (laneSlot n).val (dataOf (laneLabel n)) (laneSlot n).isLt) =
      laneMask n ∧
    namesOf (laneMask n) = [laneName n] ∧ laneOf (laneName n) = n

/-- The event code of every output, bit 2 set exactly for the framing errors. The event code
(30_encoding R42): the numbers are the spec's own, decision D4 (log entry 12). -/
def Obligations.EventCodes : Prop :=
  Output.idle.evCode = 0#3 ∧
  (∀ o : Output, (∀ e : Event, o ≠ .event e) → o.evCode = 0#3) ∧
  (∀ (f : Frame) (r : Reading), (Output.event (.completeFrame f r)).evCode = 1#3) ∧
  (Output.event .powerOn).evCode = 2#3 ∧
  (Output.event (.framingError .invalidTag)).evCode = 4#3 ∧
  (Output.event (.framingError .shortFrame)).evCode = 5#3 ∧
  (Output.event (.framingError .frameTooLong)).evCode = 6#3 ∧
  ∀ o : Output, o.evCode ≠ 3#3 ∧ o.evCode ≠ 7#3 ∧
    (o.evCode.getLsbD 2 = true ↔ ∃ y : FramingReason, o = .event (.framingError y)) ∧
    (o.evValid = true ↔ o.evCode ≠ 0#3)

/-- How a CompleteFrame is packed on the payload ports. The packing of the outputs (30_encoding R41,
R43, R44; log entry 12). -/
def Obligations.PortPacking : Prop :=
  (∀ (f : Frame) (r : Reading),
    let o := Output.event (.completeFrame f r)
    (∃ v, o.frameO = some v ∧ ∀ i : Fin 14, v.extractLsb' (4 * i.val) 4 = f[i]) ∧
    (∃ v, o.symO = some v ∧ ∀ k : Fin 4, v.extractLsb' (4 * k.val) 4 = r.sym[k].code) ∧
    (∃ v, o.segO = some v ∧ ∀ k : Fin 4, v.extractLsb' (7 * k.val) 7 = r.seg[k]) ∧
    (∃ v, o.invO = some v ∧ ∀ k : Fin 4, v.getLsbD k.val = r.inv[k]) ∧
    (∃ v, o.dpO = some v ∧ ∀ g : Fin 3, v.getLsbD g.val = r.dp[g]) ∧
    o.anyInvalidO = some r.anyInvalid ∧ o.signO = some r.sign ∧ o.attrO = some r.attr) ∧
  (∀ n : Fin 10, (Symbol.glyph (.digit n)).code.toNat = n.val) ∧
  (Symbol.glyph .overflow).code = 0xA#4 ∧ (Symbol.glyph .blank).code = 0xB#4 ∧
  Symbol.invalid.code = 0xF#4

/-- The payload ports have a value exactly when ev_code is 1. The payload is meaningful only when
ev_code = 1 (43_reading_assembly R143; log entry 12). -/
def Obligations.PayloadOnlyWithCompleteFrame : Prop :=
  ∀ o : Output,
    (o.evCode = 1#3 ↔ ∃ (f : Frame) (r : Reading), o = .event (.completeFrame f r)) ∧
    (o.evCode = 1#3 → o.frameO.isSome ∧ o.symO.isSome ∧ o.segO.isSome ∧ o.invO.isSome ∧
      o.anyInvalidO.isSome ∧ o.signO.isSome ∧ o.dpO.isSome ∧ o.attrO.isSome) ∧
    (o.evCode ≠ 1#3 → o.frameO = none ∧ o.symO = none ∧ o.segO = none ∧ o.invO = none ∧
      o.anyInvalidO = none ∧ o.signO = none ∧ o.dpO = none ∧ o.attrO = none)

/-- The slots are read only in the step that emits CompleteFrame. Slots are read only by the
Decoder, and only in the step that emits CompleteFrame (10_state R11); no Reading is computed
from a frame in progress (20_memory R32). The steps of the table rows read a frame presented
from outside, the model's choice (log entry 20). -/
def Obligations.SlotsAreReadOnlyByCompleteFrame : Prop :=
  ∀ (s t t' : State) (f : Frame), step s = .next t → step { s with frame := f } = .next t' →
    t.out.evCode ≠ 1#3 →
    t'.out = t.out ∧ t'.trace = t.trace ∧ t'.cnt = t.cnt ∧
      t' = { t with frame := t'.frame } ∧
      ∀ j : Fin 14, t'.frame[j] = t.frame[j] ∨ (t.frame[j] = s.frame[j] ∧ t'.frame[j] = f[j])

/-- A slot is written only by a byte of its own tag, and by the clearing of an event or of a reset.
The writers of a slot (10_state R11, 20_memory R25); the reset input is decision D2, the spec's
own (log entry 9). -/
def Obligations.SlotsAreWrittenOnlyByTheirTag : Prop :=
  ∀ s t : State, step s = .next t → ∀ j : Fin 14,
    t.frame[j] = s.frame[j] ∨
    (t.IsClean ∧ ((∃ e : Event, t.out = .event e) ∨
      ∃ (v : Bool) (b : Byte), s.input.head? = some (.cycle true v b))) ∨
    ∃ b : Byte, s.input.head? = some (.cycle false true b) ∧ (tagOf b).toNat = j.val + 1 ∧
      t.frame[j] = dataOf b
end

