-- ==== Sys2Proof/Tests/Slice0.lean ====
section
/-! SUPPORT. Small tests against spec/30_encoding.md and the vectors of spec/95_test_vectors.md, the smoke test of
WellFormed, and the witnesses of the statements' hypotheses. -/

namespace Sys2Proof.Tests

open Sys2Proof.Machine

/-- A frame written as the spec writes it: 14 hexadecimal digits, `frame[0]` leftmost (30_encoding
R41). -/
def frameHex (n : Nat) : Frame := Vector.ofFn fun i => BitVec.ofNat 4 (n >>> (4 * (13 - i.val)))

/-- A state with this count and frame, all else as after reset. -/
def stateAt (cnt : BitVec 4) (frame : Nat) : State :=
  { State.reset with cnt := cnt, frame := frameHex frame }

/-- A state in which the tables are presented this frame, and the slots hold none of it (10_state
R11). -/
def tableAt (frame : Nat) : State := { State.reset with tableFrame := frameHex frame }

/-- The count, the frame and the event code after an instruction. -/
def after (i : Instr) (s : State) : Option (BitVec 4 × Frame × BitVec 3) :=
  match exec i s with
  | .next t => some (t.cnt, t.frame, t.out.evCode)
  | _ => none

/-- What an instruction presents. -/
def shown (i : Instr) (s : State) : Option Output :=
  match exec i s with
  | .next t => some t.out
  | _ => none

/-! The check of WellFormed (30_encoding R40, R47). -/

theorem test_wf_refuses_BAD0_0 : (Instr.bad0 0x0#4).wf = false := by decide

theorem test_wf_admits_BAD0_1 : (Instr.bad0 0x1#4).wf = true := by decide

/-! Decoding, words written out from 30_encoding R39 and the rules of each row. -/

theorem test_decode_unstored_bytes :
    decode (.byte 0b00000000#8) = some .pwron ∧
    decode (.byte 0b00000001#8) = some (.bad0 0x1#4) ∧
    decode (.byte 0b00001111#8) = some (.bad0 0xF#4) ∧
    decode (.byte 0b11110000#8) = some (.badF 0x0#4) ∧
    decode (.byte 0b11111111#8) = some (.badF 0xF#4) := by decide

theorem test_decode_stored_bytes :
    decode (.byte 0b00010110#8) = some (.st1 0x6#4) ∧
    decode (.byte 0b00100111#8) = some (.st2 0x7#4) ∧
    decode (.byte 0b00111101#8) = some (.st3 0xD#4) ∧
    decode (.byte 0b01000010#8) = some (.st4 0x2#4) ∧
    decode (.byte 0b01010111#8) = some (.st5 0x7#4) ∧
    decode (.byte 0b01101001#8) = some (.st6 0x9#4) ∧
    decode (.byte 0b01110101#8) = some (.st7 0x5#4) ∧
    decode (.byte 0b10000000#8) = some (.st8 0x0#4) ∧
    decode (.byte 0b10010101#8) = some (.st9 0x5#4) ∧
    decode (.byte 0b10100010#8) = some (.st10 0x2#4) ∧
    decode (.byte 0b10110000#8) = some (.st11 0x0#4) ∧
    decode (.byte 0b11000100#8) = some (.st12 0x4#4) ∧
    decode (.byte 0b11010000#8) = some (.st13 0x0#4) ∧
    decode (.byte 0b11101000#8) = some (.term 0x8#4) := by decide

theorem test_decode_digit_entries :
    decode (.segCode 0b1111101#7) = some .digit0 ∧
    decode (.segCode 0b0000101#7) = some .digit1 ∧
    decode (.segCode 0b1011011#7) = some .digit2 ∧
    decode (.segCode 0b0011111#7) = some .digit3 ∧
    decode (.segCode 0b0100111#7) = some .digit4 ∧
    decode (.segCode 0b0111110#7) = some .digit5 ∧
    decode (.segCode 0b1111110#7) = some .digit6 ∧
    decode (.segCode 0b0010101#7) = some .digit7 ∧
    decode (.segCode 0b1111111#7) = some .digit8 ∧
    decode (.segCode 0b0111111#7) = some .digit9 ∧
    decode (.segCode 0b1101000#7) = some .digitOverflow ∧
    decode (.segCode 0b0000000#7) = some .digitBlank := by decide

theorem test_decode_attribute_lanes :
    decode (.attrMask 0x000001#24) = some .unknown11 ∧
    decode (.attrMask 0x000002#24) = some .auto ∧
    decode (.attrMask 0x000004#24) = some .dc ∧
    decode (.attrMask 0x000008#24) = some .ac ∧
    decode (.attrMask 0x000010#24) = some .diode ∧
    decode (.attrMask 0x000020#24) = some .kilo ∧
    decode (.attrMask 0x000040#24) = some .nano ∧
    decode (.attrMask 0x000080#24) = some .micro ∧
    decode (.attrMask 0x000100#24) = some .beep ∧
    decode (.attrMask 0x000200#24) = some .mega ∧
    decode (.attrMask 0x000400#24) = some .percent ∧
    decode (.attrMask 0x000800#24) = some .milli ∧
    decode (.attrMask 0x001000#24) = some .hold ∧
    decode (.attrMask 0x002000#24) = some .relDelta ∧
    decode (.attrMask 0x004000#24) = some .ohms ∧
    decode (.attrMask 0x008000#24) = some .farads ∧
    decode (.attrMask 0x010000#24) = some .unknownD1 ∧
    decode (.attrMask 0x020000#24) = some .hertz ∧
    decode (.attrMask 0x040000#24) = some .volts ∧
    decode (.attrMask 0x080000#24) = some .amps ∧
    decode (.attrMask 0x100000#24) = some .unknownE1 ∧
    decode (.attrMask 0x200000#24) = some .unknownE2 ∧
    decode (.attrMask 0x400000#24) = some .degreesC ∧
    decode (.attrMask 0x800000#24) = some .unknownE8 := by decide

theorem test_decode_words_without_a_row :
    decode (.segCode 0x08#7) = none ∧ decode (.attrMask 0x000003#24) = none ∧
    decode (.attrMask 0x000000#24) = none := by decide

theorem test_decodeTableWord :
    decodeTableWord 8 0x27 = some (.st2 0x7#4) ∧ decodeTableWord 7 0x7D = some .digit0 ∧
    decodeTableWord 16 0x4000 = some .ohms ∧ decodeTableWord 24 0x800000 = some .unknownE8 ∧
    decodeTableWord 8 0x100 = none ∧ decodeTableWord 32 0 = none := by decide

theorem test_frame14 :
    frame14 (frameHex 0x6855B9F2700040) = [0x16#8, 0x28#8, 0x35#8, 0x45#8, 0x5B#8, 0x69#8, 0x7F#8,
      0x82#8, 0x97#8, 0xA0#8, 0xB0#8, 0xC0#8, 0xD4#8, 0xE0#8] := by decide

/-! Single steps: 95_test_vectors T-F, named by vector, and the examples of R59 to R71. -/

theorem test_F2_PWRON : after .pwron (stateAt 4 0x07D27000000000) = some (0, Frame.zero, 2) := by
  decide

theorem test_F3_PWRON_at_15 : after .pwron (stateAt 15 0x10000000000000) =
    some (0, Frame.zero, 2) := by decide

theorem test_F5_BAD0 : after (.bad0 0xF#4) (stateAt 3 0x07D00000000000) =
    some (0, Frame.zero, 4) := by decide

theorem test_F8_BADF_at_15 : after (.badF 0x0#4) (stateAt 15 0x10000000000000) =
    some (0, Frame.zero, 4) := by decide

theorem test_F9_ST1_zero : after (.st1 0x0#4) (stateAt 0 0) = some (1, Frame.zero, 0) := by decide

theorem test_F14_ST1_reaches_15 : after (.st1 0x2#4) (stateAt 14 0x10000000000000) =
    some (15, frameHex 0x20000000000000, 0) := by decide

theorem test_F12_ST2_last_wins : after (.st2 0xA#4) (stateAt 1 0x07000000000000) =
    some (2, frameHex 0x0A000000000000, 0) := by decide

theorem test_F13_ST13 : after (.st13 0x9#4) (stateAt 5 0) =
    some (6, frameHex 0x00000000000090, 0) := by decide

theorem test_F16_ST13_too_long : after (.st13 0xF#4) (stateAt 15 0x10000000000000) =
    some (0, Frame.zero, 6) := by decide

theorem test_store_examples_digits :
    after (.st3 0xD#4) (stateAt 0 0) = some (1, frameHex 0x00D00000000000, 0) ∧
    after (.st4 0x2#4) (stateAt 0 0) = some (1, frameHex 0x00020000000000, 0) ∧
    after (.st5 0x7#4) (stateAt 0 0) = some (1, frameHex 0x00007000000000, 0) ∧
    after (.st6 0x9#4) (stateAt 0 0) = some (1, frameHex 0x00000900000000, 0) ∧
    after (.st7 0x5#4) (stateAt 0 0) = some (1, frameHex 0x00000050000000, 0) := by decide

theorem test_store_examples_attributes :
    after (.st8 0x0#4) (stateAt 0 0) = some (1, frameHex 0x00000000000000, 0) ∧
    after (.st9 0x5#4) (stateAt 0 0) = some (1, frameHex 0x00000000500000, 0) ∧
    after (.st10 0x2#4) (stateAt 0 0) = some (1, frameHex 0x00000000020000, 0) ∧
    after (.st11 0x0#4) (stateAt 0 0) = some (1, frameHex 0x00000000000000, 0) ∧
    after (.st12 0x4#4) (stateAt 0 0) = some (1, frameHex 0x00000000000400, 0) := by decide

theorem test_F18_TERM_short : after (.term 0x0#4) (stateAt 11 0x07D27950520400) =
    some (0, Frame.zero, 5) := by decide

theorem test_F19_TERM_complete : shown (.term 0x8#4) (stateAt 12 0x07D27950520400) =
    some (.event (.completeFrame (frameHex 0x07D27950520408)
      (readingOf defaultLut (frameHex 0x07D27950520408)))) := by decide

theorem test_F22_TERM_at_15 : after (.term 0x0#4) (stateAt 15 0x10000000000000) =
    some (0, Frame.zero, 1) := by decide

/-! Readings: 95_test_vectors T-R (R-1, R-3, R-4). -/

theorem test_reading_R1 : readingOf defaultLut (frameHex 0x07D27950520408) =
    { sym := #v[.glyph (.digit 0), .glyph (.digit 4), .glyph (.digit 7), .glyph (.digit 1)]
      seg := #v[0x7D#7, 0x27#7, 0x15#7, 0x05#7], inv := #v[false, false, false, false]
      anyInvalid := false, sign := false, dp := #v[false, true, false]
      attr := 0x804020#24 } := by decide

theorem test_reading_R3 : readingOf defaultLut (frameHex 0x2007DE80002400) =
    { sym := #v[.glyph .blank, .glyph (.digit 0), .glyph .overflow, .glyph .blank]
      seg := #v[0x00#7, 0x7D#7, 0x68#7, 0x00#7], inv := #v[false, false, false, false]
      anyInvalid := false, sign := false, dp := #v[false, true, false]
      attr := 0x004202#24 } := by decide

theorem test_reading_R4 : readingOf defaultLut (frameHex 0x07D08950520408) =
    { sym := #v[.glyph (.digit 0), .invalid, .glyph (.digit 7), .glyph (.digit 1)]
      seg := #v[0x7D#7, 0x08#7, 0x15#7, 0x05#7], inv := #v[false, true, false, false]
      anyInvalid := true, sign := false, dp := #v[false, true, false]
      attr := 0x804020#24 } := by decide

/-- The attributes of S3 by name: kilo, ohms and the reserved E8 flag. -/
theorem test_S3_attribute_names :
    (readingOf defaultLut (frameHex 0x07D27950520408)).attributes = [.kilo, .ohms, .unknownE8] := by
  decide

/-- Vectors S-2 and S-7: the sign, and two points reported as they are. -/
theorem test_sign_and_points :
    signOf (frameHex 0x08050902000000) = true ∧
    [0, 1, 2].map (dpOf (frameHex 0x08050902000000)) = [false, true, false] ∧
    signOf (frameHex 0x070A0108000000) = false ∧
    [0, 1, 2].map (dpOf (frameHex 0x070A0108000000)) = [true, false, true] := by decide

/-- R-4's port value: `inv` is 0b0010. -/
theorem test_R4_inv_port :
    (Output.event (.completeFrame Frame.zero
      (readingOf defaultLut (frameHex 0x07D08950520408)))).invO = some 0b0010#4 := by decide

/-! The table rows: T-D codes on the frame of R-1, T-A frames. -/

theorem test_digit_entries : [Instr.digit0, Instr.digit1, Instr.digit2, Instr.digit3, Instr.digit4, Instr.digit5,
    .digit6, .digit7, .digit8, .digit9, .digitOverflow, .digitBlank].map
      (fun i => match shown i (tableAt 0x07D27950520408) with
        | some (.digitEntry c y h) => some (c, y, h)
        | _ => none) = [
    some (0x7D#7, .glyph (.digit 0), #v[true, false, false, false]),
    some (0x05#7, .glyph (.digit 1), #v[false, false, false, true]),
    some (0x5B#7, .glyph (.digit 2), #v[false, false, false, false]),
    some (0x1F#7, .glyph (.digit 3), #v[false, false, false, false]),
    some (0x27#7, .glyph (.digit 4), #v[false, true, false, false]),
    some (0x3E#7, .glyph (.digit 5), #v[false, false, false, false]),
    some (0x7E#7, .glyph (.digit 6), #v[false, false, false, false]),
    some (0x15#7, .glyph (.digit 7), #v[false, false, true, false]),
    some (0x7F#7, .glyph (.digit 8), #v[false, false, false, false]),
    some (0x3F#7, .glyph (.digit 9), #v[false, false, false, false]),
    some (0x68#7, .glyph .overflow, #v[false, false, false, false]),
    some (0x00#7, .glyph .blank, #v[false, false, false, false])] := by decide

theorem test_attribute_lanes :
    shown .unknown11 (tableAt 0x10000000000000) = some (.lanes 0x000001#24 0x000001#24) ∧
    shown .auto (tableAt 0x20000000000000) = some (.lanes 0x000002#24 0x000002#24) ∧
    shown .dc (tableAt 0x40000000000000) = some (.lanes 0x000004#24 0x000004#24) ∧
    shown .ac (tableAt 0x80000000000000) = some (.lanes 0x000008#24 0x000008#24) ∧
    shown .diode (tableAt 0x00000000010000) = some (.lanes 0x000010#24 0x000010#24) ∧
    shown .kilo (tableAt 0x00000000020000) = some (.lanes 0x000020#24 0x000020#24) ∧
    shown .nano (tableAt 0x00000000040000) = some (.lanes 0x000040#24 0x000040#24) ∧
    shown .micro (tableAt 0x00000000080000) = some (.lanes 0x000080#24 0x000080#24) ∧
    shown .beep (tableAt 0x00000000001000) = some (.lanes 0x000100#24 0x000100#24) ∧
    shown .mega (tableAt 0x00000000002000) = some (.lanes 0x000200#24 0x000200#24) ∧
    shown .percent (tableAt 0x00000000004000) = some (.lanes 0x000400#24 0x000400#24) ∧
    shown .milli (tableAt 0x00000000008000) = some (.lanes 0x000800#24 0x000800#24) ∧
    shown .hold (tableAt 0x00000000000100) = some (.lanes 0x001000#24 0x001000#24) ∧
    shown .relDelta (tableAt 0x00000000000200) = some (.lanes 0x002000#24 0x002000#24) ∧
    shown .ohms (tableAt 0x00000000000400) = some (.lanes 0x004000#24 0x004000#24) ∧
    shown .farads (tableAt 0x00000000000800) = some (.lanes 0x008000#24 0x008000#24) ∧
    shown .unknownD1 (tableAt 0x00000000000010) = some (.lanes 0x010000#24 0x010000#24) ∧
    shown .hertz (tableAt 0x00000000000020) = some (.lanes 0x020000#24 0x020000#24) ∧
    shown .volts (tableAt 0x00000000000040) = some (.lanes 0x040000#24 0x040000#24) ∧
    shown .amps (tableAt 0x00000000000080) = some (.lanes 0x080000#24 0x080000#24) ∧
    shown .unknownE1 (tableAt 0x00000000000001) = some (.lanes 0x100000#24 0x100000#24) ∧
    shown .unknownE2 (tableAt 0x00000000000002) = some (.lanes 0x200000#24 0x200000#24) ∧
    shown .degreesC (tableAt 0x00000000000004) = some (.lanes 0x400000#24 0x400000#24) ∧
    shown .unknownE8 (tableAt 0x00000000000008) = some (.lanes 0x800000#24 0x800000#24) := by decide

theorem test_attribute_lane_clear :
    shown .kilo (tableAt 0xFFFFFFFFFDFFFF) = some (.lanes 0x000020#24 0x000000#24) := by decide

/-! Witnesses: concrete states and operands that meet the hypotheses of the statements. -/

/-- The bytes of S3 without the terminal one. -/
def s3Bytes : List Byte :=
  [0x27#8, 0x3D#8, 0x42#8, 0x57#8, 0x69#8, 0x75#8, 0x80#8, 0x95#8, 0xA2#8, 0xB0#8, 0xC4#8, 0xD0#8]

/-- The state after reset, with something to present. -/
def given (inp : List Input) : State := { State.reset with input := inp }

theorem witness_DecodeInvertsEncode : (Instr.bad0 0x5#4).wf = true ∧ Instr.kilo.wf = true := by
  decide

theorem witness_EncodeInvertsDecode : decode (.byte 0x0F#8) = some (.bad0 0xF#4) ∧
    decode (.segCode 0x7F#7) = some .digit8 ∧ decode (.attrMask 0x000001#24) = some .unknown11 := by
  decide

theorem witness_StepRunsThePresentedByte :
    (given [.cycle false true 0x27#8]).input = .cycle false true 0x27#8 :: [] := by decide

theorem witness_StepRunsTheTableWord :
    (given [.segCode 0x7D#7 Frame.zero]).input = .segCode 0x7D#7 Frame.zero :: [] ∧
    decode (.segCode 0x7D#7) = some .digit0 ∧ decode (.segCode 0x08#7) = none ∧
    (given [.attrMask 0x000020#24 Frame.zero]).input = .attrMask 0x000020#24 Frame.zero :: [] ∧
    decode (.attrMask 0x000020#24) = some .kilo ∧ decode (.attrMask 0x000030#24) = none := by decide

theorem witness_WithFetchWordRunsTheInstruction : decodeTableWord 8 0x27 = some (.st2 0x7#4) ∧
    decodeTableWord 24 0x000020 = some .kilo := by decide

theorem witness_ResetCycleGivesClean :
    (given [.cycle true true 0x27#8]).input = .cycle true true 0x27#8 :: [] := by decide

theorem witness_NothingHappensWithoutAByte : (given []).input = [] ∧ [0x27#8, 0x00#8] ≠ [] ∧
    (given [.cycle false false 0x27#8, .cycle false false 0x00#8]).input =
      [0x27#8, 0x00#8].map (fun b => Input.cycle false false b) ++ [] := by decide

theorem witness_StepConsumesInputAndKeepsTheParameters :
    step (given [.cycle false true 0x27#8]) = .next ({ stateAt 1 0x07000000000000 with
      taken := 1 }) ∧ step State.reset = .next State.reset := ⟨by rfl, by rfl⟩

theorem witness_PowerOnInEveryState : Accepted 0x10#8 ∧ Accepted 0xEF#8 := by decide

theorem witness_InvalidTagInEveryState :
    Instr.bad0 0x5#4 ∈ [Instr.bad0 0x5#4, Instr.badF 0x5#4] ∧
    Instr.badF 0x5#4 ∈ [Instr.bad0 0x5#4, Instr.badF 0x5#4] := by decide

theorem witness_DigitSlotStores : (stateAt 14 0).cnt.toNat < 15 ∧ (stateAt 0 0).cnt.toNat < 15 := by
  decide

theorem witness_AttributeSlotStores : (stateAt 14 0x10000000000000).cnt.toNat < 15 := by decide

theorem witness_SixteenthByteIsTooLong : (stateAt 15 0).cnt = 15#4 ∧
    exec (.st1 0x1#4) (stateAt 15 0) = .next ((stateAt 15 0).afterEvent
      (.framingError .frameTooLong)) ∧
    ((stateAt 15 0).afterEvent (.framingError .frameTooLong)).out =
      .event (.framingError .frameTooLong) := ⟨by decide, by rfl, by rfl⟩

theorem witness_TerminalByteEndsTheAttempt : (stateAt 11 0).cnt.toNat ≤ 11 ∧
    12 ≤ (stateAt 12 0).cnt.toNat ∧ (stateAt 12 0).cnt ≠ 15#4 ∧
    12 ≤ (stateAt 15 0).cnt.toNat ∧ (stateAt 15 0).cfg.term16Completes = true := by decide

theorem witness_TerminalByteAsSixteenth : (stateAt 15 0).cnt = 15#4 := by decide

theorem witness_EveryEventLeavesClean :
    exec .pwron (stateAt 4 0x07D27000000000) =
      .next ((stateAt 4 0x07D27000000000).afterEvent .powerOn) ∧
    ((stateAt 4 0x07D27000000000).afterEvent .powerOn).out = .event .powerOn := ⟨by rfl, by rfl⟩

theorem witness_TableRowsLeaveTheBlockAlone : Instr.kilo.isByteClass = false ∧
    Instr.digitBlank.isByteClass = false := by decide

theorem witness_StepKeepsTheFrameInvariant : FrameInv (stateAt 1 0x07000000000000) ∧
    step (stateAt 1 0x07000000000000) = .next (stateAt 1 0x07000000000000) := ⟨by decide, by rfl⟩

/-- A state with one delivered event. -/
def afterPowerOn : State := { State.reset with taken := 1, trace := [(1, .powerOn)] }

theorem witness_StepKeepsTheTraceInvariant :
    TraceInv afterPowerOn ∧ step afterPowerOn = .next afterPowerOn := by
  refine ⟨⟨by decide, by decide, ?_⟩, by rfl⟩
  intro p hp
  simp only [afterPowerOn, List.mem_singleton] at hp
  subst hp
  trivial

theorem witness_TraceRecordsTheEventOfEachStep :
    step (given [.cycle false true 0x00#8]) = .next { afterPowerOn with out := .event .powerOn } ∧
    step afterPowerOn = .next afterPowerOn := ⟨by rfl, by rfl⟩

theorem witness_NoHiddenState : State.reset.cnt = afterPowerOn.cnt ∧
    State.reset.frame = afterPowerOn.frame ∧ State.reset.cfg = afterPowerOn.cfg ∧
    State.reset.input = afterPowerOn.input ∧
    Host.Core.run Sys2Proof.core 1 State.reset = .next State.reset ∧
    Host.Core.run Sys2Proof.core 1 afterPowerOn = .next afterPowerOn :=
  ⟨by rfl, by rfl, by rfl, by rfl, by rfl, by rfl⟩

theorem witness_AcceptedBytesAssembleTheFrame : State.reset.IsClean ∧
    (s3Bytes ++ [0x27#8, 0x16#8, 0xDF#8]).length = 15 ∧
    ∀ b ∈ s3Bytes ++ [0x27#8, 0x16#8, 0xDF#8], NonTerminal b := by decide

theorem witness_AttemptEndsByItsCount : State.reset.IsClean ∧ State.reset.cfg.term16Completes = true ∧
    (s3Bytes.take 11).length ≤ 11 ∧ 12 ≤ s3Bytes.length ∧ (∀ b ∈ s3Bytes, NonTerminal b) ∧
    (s3Bytes ++ [0x27#8, 0x16#8, 0xDF#8]).length = 15 ∧
    (∀ b ∈ s3Bytes ++ [0x27#8, 0x16#8, 0xDF#8], NonTerminal b) ∧
    ({ State.reset with cfg := { defaultConfig with term16Completes := false } } : State).cfg.term16Completes
      = false ∧ NonTerminal 0x10#8 := by decide

theorem witness_DistinctTagsCompleteTheFrame : State.reset.IsClean ∧
    (s3Bytes ++ [0xE8#8]).length = 13 ∧ ((s3Bytes ++ [0xE8#8]).map tagOf).Nodup ∧
    (∀ b ∈ s3Bytes ++ [0xE8#8], Accepted b) ∧ (s3Bytes ++ [0xE8#8]).getLast? = some 0xE8#8 ∧
    tagOf 0xE8#8 = 14#4 ∧ (frame14 (frameHex 0x6855B9F2700040)).length = 14 ∧
    ((frame14 (frameHex 0x6855B9F2700040)).map tagOf).Nodup := by decide

theorem witness_ArrivalOrderDoesNotMatter : State.reset.IsClean ∧ s3Bytes.Perm s3Bytes.reverse ∧
    (s3Bytes.map tagOf).Nodup ∧ ∀ b ∈ s3Bytes, NonTerminal b :=
  ⟨by decide, (List.reverse_perm s3Bytes).symm, by decide, by decide⟩

theorem witness_SixteenBytesGiveAnEvent : (List.replicate 16 0x10#8).length = 16 := by decide

theorem witness_WholePacketsAreComplete : State.reset.IsClean := by decide

theorem witness_LookUpFindsEntriesOnly : lutAdmissible defaultLut := defaultLut_admissible

theorem witness_SourceFixedCodes : lutAdmissible defaultLut := defaultLut_admissible

theorem witness_TwelveCodesMapOntoTheSymbols : lutAdmissible defaultLut := defaultLut_admissible

/-- Two frames that agree in pair 2, the sign, and the points of gaps 2 and 3, and differ in every
other slot. -/
theorem witness_DigitPartReadsOnlyItsBits :
    let f := frameHex 0x07D27950520408
    let f' := frameHex 0xF00A78F7FFFFFF
    f ≠ f' ∧ f[3].extractLsb' 0 3 = f'[3].extractLsb' 0 3 ∧ f[4] = f'[4] ∧
      f[1].getLsbD 3 = f'[1].getLsbD 3 ∧ f[5].getLsbD 3 = f'[5].getLsbD 3 ∧
      f[7].getLsbD 3 = f'[7].getLsbD 3 := by decide

theorem witness_AttributeBitsAreABijection : 1 ≤ (1 : Fin 14).val ∧ (8 : Fin 14).val ≤ 8 ∧
    attrOf (frameHex 0x0FFFFFFFF00000) = attrOf Frame.zero := by decide

theorem witness_DefaultTableEntries : State.reset.cfg.digitLut = defaultLut ∧
    lutAdmissible State.reset.cfg.digitLut := ⟨by rfl, defaultLut_admissible⟩

theorem witness_TableRowsAssembleTheReading :
    (tableAt 0x07D27950520408).cfg.digitLut = defaultLut := by rfl

theorem witness_EventCodes : (∀ e : Event, Output.lanes 0x000020#24 0x000020#24 ≠ .event e) ∧
    ∀ e : Event, Output.digitEntry 0x05#7 (.glyph (.digit 1)) (Vector.replicate 4 false) ≠ .event e :=
  ⟨(fun _ h => nomatch h), (fun _ h => nomatch h)⟩

theorem witness_PayloadOnlyWithCompleteFrame : Output.idle.evCode ≠ 1#3 ∧
    (Output.event .powerOn).evCode ≠ 1#3 ∧ (Output.event (.completeFrame Frame.zero
      (readingOf defaultLut Frame.zero))).evCode = 1#3 := by decide

theorem witness_SlotsAreReadOnlyByCompleteFrame :
    step (given [.cycle false true 0x27#8]) = .next { stateAt 1 0x07000000000000 with taken := 1 } ∧
    step { given [.cycle false true 0x27#8] with frame := frameHex 0x15000000000000 } =
      .next { stateAt 1 0x17000000000000 with taken := 1 } ∧
    ({ stateAt 1 0x07000000000000 with taken := 1 } : State).out.evCode ≠ 1#3 :=
  ⟨by rfl, by rfl, by decide⟩

theorem witness_SlotsAreWrittenOnlyByTheirTag :
    step (given [.cycle false true 0x27#8]) = .next { stateAt 1 0x07000000000000 with taken := 1 } ∧
    step (given [.cycle false true 0x00#8]) = .next { afterPowerOn with out := .event .powerOn } ∧
    step (given [.cycle true true 0x27#8]) = .next State.reset := ⟨by rfl, by rfl, by rfl⟩

end Sys2Proof.Tests
end

namespace Sys2Proof.Machine

/-! Proofs of the statements of 00_scope.md: the step of a presented byte, the terminal byte as 16th,
and the table rows against `decode(frame)`. -/

/-! ### The meanings of the table rows -/

/-- Every instruction is a class of input byte or a row of one of the two tables. -/
theorem instr_formats (i : Instr) :
    i.isByteClass = true ∨ i ∈ segCodeRows.map Prod.snd ∨ i ∈ attrMaskRows.map Prod.snd := by
  cases i <;> simp [Instr.isByteClass, segCodeRows, attrMaskRows]

/-- A row of the DigitTable presents the entry of its code (41_digit_decoder R88 to R99). -/
theorem exec_of_mem_segCodeRows {c : SegCode} {i : Instr} (h : (c, i) ∈ segCodeRows) (s : State) :
    exec i s = .next (presentEntry c s) := by
  simp only [segCodeRows, List.mem_cons, List.not_mem_nil, or_false, Prod.mk.injEq] at h
  rcases h with ⟨rfl, rfl⟩ | ⟨rfl, rfl⟩ | ⟨rfl, rfl⟩ | ⟨rfl, rfl⟩ | ⟨rfl, rfl⟩ | ⟨rfl, rfl⟩ |
    ⟨rfl, rfl⟩ | ⟨rfl, rfl⟩ | ⟨rfl, rfl⟩ | ⟨rfl, rfl⟩ | ⟨rfl, rfl⟩ | ⟨rfl, rfl⟩ <;> rfl

/-- A row of the AttributeTable presents the lane of its mask (42_attribute_mapper R110 to R133). -/
theorem exec_of_mem_attrMaskRows {m : AttrMask} {i : Instr} (h : (m, i) ∈ attrMaskRows)
    (s : State) : exec i s = .next (presentLanes m s) := by
  simp only [attrMaskRows, List.mem_cons, List.not_mem_nil, or_false, Prod.mk.injEq] at h
  rcases h with ⟨rfl, rfl⟩ | ⟨rfl, rfl⟩ | ⟨rfl, rfl⟩ | ⟨rfl, rfl⟩ | ⟨rfl, rfl⟩ | ⟨rfl, rfl⟩ |
    ⟨rfl, rfl⟩ | ⟨rfl, rfl⟩ | ⟨rfl, rfl⟩ | ⟨rfl, rfl⟩ | ⟨rfl, rfl⟩ | ⟨rfl, rfl⟩ |
    ⟨rfl, rfl⟩ | ⟨rfl, rfl⟩ | ⟨rfl, rfl⟩ | ⟨rfl, rfl⟩ | ⟨rfl, rfl⟩ | ⟨rfl, rfl⟩ |
    ⟨rfl, rfl⟩ | ⟨rfl, rfl⟩ | ⟨rfl, rfl⟩ | ⟨rfl, rfl⟩ | ⟨rfl, rfl⟩ | ⟨rfl, rfl⟩ <;> rfl

/-- What an instruction presents, by its format: a byte an event or nothing, a row of a table its
code or mask read alone. -/
theorem exec_out_cases {i : Instr} {s t : State} (h : exec i s = .next t) :
    (t.out = .idle ∨ ∃ e, t.out = .event e) ∨
    (∃ c, (c, i) ∈ segCodeRows ∧ t = presentEntry c s) ∨
    ∃ m, (m, i) ∈ attrMaskRows ∧ t = presentLanes m s := by
  rcases instr_formats i with hi | hi | hi
  · obtain ⟨e, -, ht⟩ | ⟨j, d, -, -, ht⟩ := exec_byteClass hi s <;> cases h.symm.trans ht
    · exact .inl (.inr ⟨e, rfl⟩)
    · exact .inl (.inl rfl)
  · obtain ⟨⟨c, _⟩, hr, rfl⟩ := List.mem_map.mp hi
    cases h.symm.trans (exec_of_mem_segCodeRows hr s)
    exact .inr (.inl ⟨c, hr, rfl⟩)
  · obtain ⟨⟨m, _⟩, hr, rfl⟩ := List.mem_map.mp hi
    cases h.symm.trans (exec_of_mem_attrMaskRows hr s)
    exact .inr (.inr ⟨m, hr, rfl⟩)

/-- An instruction presents an entry of the DigitTable exactly when it is the row of that code. -/
theorem exec_eq_digitEntry_iff (i : Instr) (s : State) (c : SegCode) (y : Symbol)
    (hits : Vector Bool 4) :
    exec i s = .next { s with out := .digitEntry c y hits } ↔
      (c, i) ∈ segCodeRows ∧ y = lookUp s.cfg.digitLut c ∧ hits = digitsShowing s.tableFrame c := by
  constructor
  · intro h
    obtain (ho | ⟨e, ho⟩) | ⟨c', hr, ht⟩ | ⟨m, -, ht⟩ := exec_out_cases h
    · cases ho
    · cases ho
    · cases congrArg State.out ht
      exact ⟨hr, rfl, rfl⟩
    · cases congrArg State.out ht
  · rintro ⟨hr, rfl, rfl⟩
    exact exec_of_mem_segCodeRows hr s

/-- An instruction presents lanes exactly when it is the row of their mask. -/
theorem exec_eq_lanes_iff (i : Instr) (s : State) (m v : AttrMask) :
    exec i s = .next { s with out := .lanes m v } ↔
      (m, i) ∈ attrMaskRows ∧ v = attrOf s.tableFrame &&& m := by
  constructor
  · intro h
    obtain (ho | ⟨e, ho⟩) | ⟨c, -, ht⟩ | ⟨m', hr, ht⟩ := exec_out_cases h
    · cases ho
    · cases ho
    · cases congrArg State.out ht
    · cases congrArg State.out ht
      exact ⟨hr, rfl⟩
  · rintro ⟨hr, rfl⟩
    exact exec_of_mem_attrMaskRows hr s

/-! ### The table rows against the Reading -/

theorem readingOf_sym (lut : DigitLut) (f : Frame) (k : Fin 4) :
    (readingOf lut f).sym[k] = lookUp lut (segOf f k) := by
  simp [readingOf, symOf, decodeDigit, segOf]

theorem digitsShowing_eq_true_iff (f : Frame) (c : SegCode) (k : Fin 4) :
    (digitsShowing f c)[k] = true ↔ segOf f k = c := by
  simp [digitsShowing]

/-- The codes with a row are the codes of the default DigitTable. -/
theorem segCodeRows_codes_perm :
    (segCodeRows.map Prod.fst).Perm (defaultLut.map Prod.fst) := by decide

/-- Each code of the default DigitTable has its row. -/
theorem exists_row_of_mem_defaultLut {c : SegCode} {g : Glyph} (h : (c, g) ∈ defaultLut) :
    ∃ i, (c, i) ∈ segCodeRows := by
  obtain ⟨⟨_, i⟩, hr, rfl⟩ :=
    List.mem_map.mp (segCodeRows_codes_perm.mem_iff.mpr (List.mem_map_of_mem (f := Prod.fst) h))
  exact ⟨i, hr⟩

/-- The code of a row is no miss in the default DigitTable. -/
theorem lookUp_ne_invalid_of_mem_segCodeRows {c : SegCode} {i : Instr}
    (h : (c, i) ∈ segCodeRows) : lookUp defaultLut c ≠ .invalid := by
  obtain ⟨⟨_, g⟩, hg, rfl⟩ :=
    List.mem_map.mp (segCodeRows_codes_perm.mem_iff.mp (List.mem_map_of_mem (f := Prod.fst) h))
  simp [lookUp_of_mem defaultLut_admissible.codes_distinct hg]

/-- Each lane has its row. -/
theorem exists_row_of_lane (n : Fin 24) : ∃ i, (laneMask n, i) ∈ attrMaskRows := by
  have h : ∀ n : Fin 24, laneMask n ∈ attrMaskRows.map Prod.fst := by decide
  obtain ⟨⟨_, i⟩, hr, hm⟩ := List.mem_map.mp (h n)
  exact ⟨i, hm ▸ hr⟩

/-- A digit is `g` exactly when the row of its code presents `g` and hits it. -/
theorem sym_eq_glyph_iff_row {s : State} (hlut : s.cfg.digitLut = defaultLut) (k : Fin 4)
    (g : Glyph) : (readingOf s.cfg.digitLut s.tableFrame).sym[k] = .glyph g ↔
      ∃ (i : Instr) (c : SegCode) (hits : Vector Bool 4),
        exec i s = .next { s with out := .digitEntry c (.glyph g) hits } ∧ hits[k] = true := by
  simp only [readingOf_sym, exec_eq_digitEntry_iff]
  constructor
  · intro h
    obtain ⟨i, hr⟩ := exists_row_of_mem_defaultLut (mem_of_lookUp (hlut ▸ h))
    exact ⟨i, _, _, ⟨hr, h.symm, rfl⟩, (digitsShowing_eq_true_iff _ _ k).mpr rfl⟩
  · rintro ⟨i, c, _, ⟨-, hg, rfl⟩, hk⟩
    rw [(digitsShowing_eq_true_iff _ _ k).mp hk, hg]

/-- A digit is INVALID exactly when no row hits it. -/
theorem sym_eq_invalid_iff_no_row {s : State} (hlut : s.cfg.digitLut = defaultLut) (k : Fin 4) :
    (readingOf s.cfg.digitLut s.tableFrame).sym[k] = .invalid ↔
      ∀ (i : Instr) (c : SegCode) (y : Symbol) (hits : Vector Bool 4),
        exec i s = .next { s with out := .digitEntry c y hits } → hits[k] = false := by
  constructor
  · intro h i c y hits hx
    obtain ⟨hr, -, rfl⟩ := (exec_eq_digitEntry_iff i s c y hits).mp hx
    rw [Bool.eq_false_iff]
    intro hk
    obtain rfl := (digitsShowing_eq_true_iff _ _ k).mp hk
    rw [readingOf_sym, hlut] at h
    exact lookUp_ne_invalid_of_mem_segCodeRows hr h
  · intro h
    cases hy : (readingOf s.cfg.digitLut s.tableFrame).sym[k] with
    | invalid => rfl
    | glyph g =>
      obtain ⟨i, c, hits, hx, hk⟩ := (sym_eq_glyph_iff_row hlut k g).mp hy
      exact absurd hk (Bool.eq_false_iff.mp (h i c _ hits hx))

/-- A lane of `attr` is 1 exactly when its row presents it as 1. -/
theorem attr_eq_true_iff_row (s : State) (n : Fin 24) :
    (readingOf s.cfg.digitLut s.tableFrame).attr.getLsbD n.val = true ↔
      ∃ (i : Instr) (m v : AttrMask),
        exec i s = .next { s with out := .lanes m v } ∧ v.getLsbD n.val = true := by
  simp only [exec_eq_lanes_iff]
  constructor
  · intro h
    obtain ⟨i, hr⟩ := exists_row_of_lane n
    refine ⟨i, laneMask n, _, ⟨hr, rfl⟩, ?_⟩
    have ha : (attrOf s.tableFrame).getLsbD n.val = true := h
    simp [ha, laneMask]
  · rintro ⟨i, m, _, ⟨-, rfl⟩, hv⟩
    rw [BitVec.getLsbD_and, Bool.and_eq_true] at hv
    exact hv.1

/-- Settles O44: a code has a row exactly when the default DigitTable has it, and each lane has its
row. -/
theorem tableRowsAssembleTheReading : Obligations.TableRowsAssembleTheReading := fun s hlut =>
  ⟨sym_eq_glyph_iff_row hlut, sym_eq_invalid_iff_no_row hlut, attr_eq_true_iff_row s⟩

/-! ### The step of a presented byte -/

/-- The byte 0x00 is `PWRON`, so `BAD0` never comes with the nibble 0 (30_encoding R40). -/
theorem decodeByte_wf : ∀ b : Byte, (decodeByte b).wf = true := by decide

/-- Settles O5: the instruction is `decodeByte b`. -/
theorem stepRunsThePresentedByte : Obligations.StepRunsThePresentedByte := fun _ b _ h =>
  ⟨decodeByte b, rfl, decodeByte_wf b, decodeByte_isByteClass b, step_presented h⟩

/-! ### The terminal byte as 16th accepted byte -/

/-- Settles O19, by the two values of `TERM16_COMPLETES`. -/
theorem terminalByteAsSixteenth : Obligations.TerminalByteAsSixteenth := by
  intro s d h15
  refine congrArg Host.Outcome.next ?_
  cases h16 : s.cfg.term16Completes with
  | true => exact acceptTerminal_of_le d (by rw [h15]; decide) fun _ => h16
  | false => exact acceptTerminal_of_full d h15 h16

end Sys2Proof.Machine

namespace Sys2Proof.Machine

/-! Proofs of the statements of 10_state.md: the reset state, the invariant of the reachable states, who reads
and who writes a slot, and what a run depends on. -/

/-! ### The event of a terminal byte -/

/-- The event of a terminal byte with nibble `d`, from the block's own state and its parameters
(40_frame_assembler R58, R72 to R74). -/
def terminalEvent (d : Nibble) (cnt : BitVec 4) (f : Frame) (cfg : Config) : Event :=
  if cnt.toNat < 12 then .framingError .shortFrame
  else if cnt = 15#4 ∧ cfg.term16Completes = false then .framingError .frameTooLong
  else .completeFrame (f.set 13 d) (readingOf cfg.digitLut (f.set 13 d))

theorem acceptTerminal_eq (d : Nibble) (s : State) :
    acceptTerminal d s = s.afterEvent (terminalEvent d s.cnt s.frame s.cfg) := by
  unfold terminalEvent
  split
  · next h => exact acceptTerminal_of_lt d h
  · next h =>
    split
    · next hc => exact acceptTerminal_of_full d hc.1 hc.2
    · next hc =>
      refine acceptTerminal_of_le d (Nat.not_lt.mp h) fun h15 => ?_
      exact Bool.eq_true_of_not_eq_false fun hf => hc ⟨h15, hf⟩

/-- A terminal byte that completes no frame reads no slot (10_state R11). -/
theorem terminalEvent_frame_irrel {d : Nibble} {cnt : BitVec 4} {f : Frame} {cfg : Config}
    (h : (terminalEvent d cnt f cfg).code ≠ 1#3) (f' : Frame) :
    terminalEvent d cnt f' cfg = terminalEvent d cnt f cfg := by
  unfold terminalEvent at h ⊢
  split
  · rfl
  · next hlt =>
    split
    · rfl
    · next hc =>
      rw [if_neg hlt, if_neg hc] at h
      exact absurd rfl h

/-! ### A step as an operation fixed by what is presented -/

/-- What a step does to the state once its input is consumed, by that input. An operation is fixed by the
input alone: two states that are presented the same undergo the same one. -/
inductive StepOp : Option Input → (State → State) → Prop
  /-- Nothing is presented (40_frame_assembler R76). -/
  | nothing : StepOp none State.hold
  /-- A cycle with `rst = 1` (70_reset R161). -/
  | reset (v : Bool) (b : Byte) : StepOp (some (.cycle true v b)) fun s => s.clean.hold
  /-- A cycle with `in_valid = 0`. -/
  | noByte (b : Byte) : StepOp (some (.cycle false false b)) State.hold
  /-- The byte 0x00 (40_frame_assembler R51). -/
  | powerOn : StepOp (some (.cycle false true 0x00#8)) fun s => s.takeByte.afterEvent .powerOn
  /-- Any other byte with tag 0 or 15 (40_frame_assembler R52, R53). -/
  | invalidTag (b : Byte) (hz : b ≠ 0x00#8) (hb : ¬ Accepted b) :
      StepOp (some (.cycle false true b)) fun s =>
        s.takeByte.afterEvent (.framingError .invalidTag)
  /-- A byte with tag 1 to 13 (40_frame_assembler R59 to R71). -/
  | store (b : Byte) (i : Fin 14) (hi : i ≠ 13) (hb : (tagOf b).toNat = i.val + 1) :
      StepOp (some (.cycle false true b)) fun s => acceptByte i (dataOf b) s.takeByte
  /-- A byte with tag 14 (40_frame_assembler R72). -/
  | terminal (b : Byte) (hb : tagOf b = Config.terminalTag) :
      StepOp (some (.cycle false true b)) fun s => acceptTerminal (dataOf b) s.takeByte
  /-- A segment code for the DigitTable. -/
  | entry (c : SegCode) (f : Frame) :
      StepOp (some (.segCode c f)) fun s => presentEntry c { s with tableFrame := f }
  /-- A mask for the AttributeTable. -/
  | lanes (m : AttrMask) (f : Frame) :
      StepOp (some (.attrMask m f)) fun s => presentLanes m { s with tableFrame := f }

/-- Tags 0 and 15 are the classes `BAD0` and `BADF`, once 0x00 is out (30_encoding R39, R40). -/
theorem exec_invalidTag {b : Byte} (hz : b ≠ 0x00#8) (hb : ¬ Accepted b) (s : State) :
    exec (decodeByte b) s = .next (s.afterEvent (.framingError .invalidTag)) := by
  have htag : tagOf b = 0#4 ∨ tagOf b = 15#4 := by
    have hlt := (tagOf b).isLt
    simp only [← BitVec.toNat_inj, BitVec.toNat_ofNat]
    omega
  rw [decodeByte, if_neg hz]
  obtain h | h := htag
  · rw [h]
    rfl
  · rw [h]
    rfl

/-- The slot of a non-terminal byte is its tag less 1 (20_memory R22). -/
theorem exists_slot_of_nonTerminal {b : Byte} (h : NonTerminal b) :
    ∃ i : Fin 14, i ≠ 13 ∧ (tagOf b).toNat = i.val + 1 := by
  obtain ⟨h1, h13⟩ := h
  exact ⟨⟨(tagOf b).toNat - 1, by omega⟩, Fin.ne_of_val_ne (by simp; omega), by simp; omega⟩

/-- The operation of a presented byte, by its tag. -/
theorem exists_byteOp (b : Byte) : ∃ op, StepOp (some (.cycle false true b)) op ∧
    ∀ s : State, exec (decodeByte b) s.takeByte = .next (op s) := by
  by_cases hz : b = 0x00#8
  · subst hz
    exact ⟨_, .powerOn, fun _ => rfl⟩
  by_cases hacc : Accepted b
  · by_cases h14 : tagOf b = Config.terminalTag
    · exact ⟨_, .terminal b h14, fun s => exec_terminal h14 s.takeByte⟩
    · have hnt : NonTerminal b := by
        simp only [← BitVec.toNat_inj, Config.terminalTag, BitVec.toNat_ofNat] at h14
        omega
      obtain ⟨i, hi, hb⟩ := exists_slot_of_nonTerminal hnt
      exact ⟨_, .store b i hi hb, fun s => exec_nonTerminal hi hb s.takeByte⟩
  · exact ⟨_, .invalidTag b hz hacc, fun s => exec_invalidTag hz hacc s.takeByte⟩

/-- A segment code is looked up alone, whether or not it has a row (log entry 6). -/
theorem step_segCode {s : State} {c : SegCode} {f : Frame} {rest : List Input}
    (h : s.input = .segCode c f :: rest) :
    step s = .next (presentEntry c { s with input := rest, tableFrame := f }) := by
  unfold step fetch
  rw [h]
  simp only [fetchSegCode]
  cases hd : decodeSegCode c with
  | none => rfl
  | some i => exact exec_of_mem_segCodeRows (mem_of_decodeSegCode hd) _

/-- A mask is presented alone, whether or not it has a row (log entry 7). -/
theorem step_attrMask {s : State} {m : AttrMask} {f : Frame} {rest : List Input}
    (h : s.input = .attrMask m f :: rest) :
    step s = .next (presentLanes m { s with input := rest, tableFrame := f }) := by
  unfold step fetch
  rw [h]
  simp only [fetchAttrMask]
  cases hd : decodeAttrMask m with
  | none => rfl
  | some i => exact exec_of_mem_attrMaskRows (mem_of_decodeAttrMask hd) _

/-- Reset wins over a byte (70_reset R161). -/
theorem step_reset {s : State} {v : Bool} {b : Byte} {rest : List Input}
    (h : s.input = .cycle true v b :: rest) :
    step s = .next { s with input := rest }.clean.hold := by
  unfold step fetch
  rw [h]
  rfl

/-- A cycle without a byte holds the state (40_frame_assembler R76). -/
theorem step_noByte {s : State} {b : Byte} {rest : List Input}
    (h : s.input = .cycle false false b :: rest) : step s = .next { s with input := rest }.hold := by
  unfold step fetch
  rw [h]
  rfl

theorem step_nil {s : State} (h : s.input = []) : step s = .next s.hold := by
  unfold step fetch
  rw [h]

/-- Every step is the operation of its input, on the state with that input consumed. -/
theorem exists_stepOp (inp : List Input) : ∃ op, StepOp inp.head? op ∧
    ∀ s : State, s.input = inp → step s = .next (op { s with input := inp.tail }) := by
  match inp with
  | [] => exact ⟨_, .nothing, fun s h => by rw [step_nil h]; simp [State.hold, h]⟩
  | .cycle true v b :: rest =>
    exact ⟨_, .reset v b, fun _ h => step_reset h⟩
  | .cycle false false b :: rest =>
    exact ⟨_, .noByte b, fun _ h => step_noByte h⟩
  | .cycle false true b :: rest =>
    obtain ⟨op, hop, hexec⟩ := exists_byteOp b
    exact ⟨op, hop, fun s h => (step_presented h).trans (hexec { s with input := rest })⟩
  | .segCode c f :: rest => exact ⟨_, .entry c f, fun _ h => step_segCode h⟩
  | .attrMask m f :: rest => exact ⟨_, .lanes m f, fun _ h => step_attrMask h⟩

/-! ### The invariant of the reachable states -/

theorem frameInv_of_isClean {s : State} (h : s.IsClean) : FrameInv s := by
  obtain ⟨hcnt, hframe⟩ := h
  refine ⟨fun _ => hframe, by rw [hframe]; rfl, ?_⟩
  rw [hframe, show (Frame.zero.toList.take 13).countP (fun v => v != 0#4) = 0 by decide]
  exact Nat.zero_le _

/-- A store makes at most one more of the first 13 slots non-zero. -/
theorem countP_take_set_le (f : Frame) (i : Fin 14) (d : Nibble) :
    ((f.set i.val d i.isLt).toList.take 13).countP (fun v => v != 0#4) ≤
      (f.toList.take 13).countP (fun v => v != 0#4) + 1 := by
  rw [Vector.toList_set, List.take_set]
  by_cases hi : i.val < (f.toList.take 13).length
  · rw [List.countP_set hi]
    split <;> split <;> omega
  · rw [List.set_eq_of_length_le (Nat.not_lt.mp hi)]
    exact Nat.le_succ _

/-- An accepted byte that ends nothing keeps the invariant: one slot stored, one byte counted. -/
theorem frameInv_store {s : State} (h : FrameInv s) (i : Fin 14) (d : Nibble) (hi : i ≠ 13)
    (hcnt : s.cnt ≠ 15#4) : FrameInv
      { s with frame := s.frame.set i.val d i.isLt, cnt := s.cnt + 1#4, out := .idle } := by
  obtain ⟨-, hlast, hcount⟩ := h
  have hsucc : (s.cnt + 1#4).toNat = s.cnt.toNat + 1 := by
    have := s.cnt.isLt
    rw [ne_eq, ← BitVec.toNat_inj, BitVec.toNat_ofNat] at hcnt
    rw [BitVec.toNat_add, BitVec.toNat_ofNat]
    omega
  refine ⟨fun h0 => ?_, ?_, ?_⟩
  · have := congrArg BitVec.toNat h0
    rw [hsucc] at this
    exact absurd this (Nat.succ_ne_zero _)
  · have : i.val ≠ 13 := Fin.val_ne_of_ne hi
    simpa [Vector.getElem_set, this] using hlast
  · show _ ≤ (s.cnt + 1#4).toNat
    rw [hsucc]
    exact (countP_take_set_le s.frame i d).trans (Nat.succ_le_succ hcount)

/-- What every meaning can do keeps the invariant. -/
theorem frameInv_execResult {s t : State} (h : FrameInv s) (hr : ExecResult s t) : FrameInv t := by
  obtain ⟨e, -, rfl⟩ | ⟨i, d, hi, hcnt, rfl⟩ | ⟨o, -, rfl⟩ := hr
  · exact frameInv_of_isClean ⟨rfl, rfl⟩
  · exact frameInv_store h i d hi hcnt
  · exact h

/-- Settles O23: a step clears, stores one slot with the count one up, or leaves both as they are. -/
theorem stepKeepsTheFrameInvariant : Obligations.StepKeepsTheFrameInvariant := by
  intro s t h hst
  obtain ⟨s', i, hr, -, ⟨⟨f, rfl⟩, -⟩ | ⟨rfl, -⟩⟩ | rfl | ⟨o, f, -, rfl⟩ := step_cases hst
  · exact frameInv_execResult (s := { s with input := s.input.tail, tableFrame := f }) h hr
  · exact frameInv_execResult (s := { s with input := s.input.tail, taken := s.taken + 1 }) h hr
  · exact frameInv_of_isClean ⟨rfl, rfl⟩
  · exact h

/-! ### What a run depends on -/

/-- The states agree on the block's own state, its parameters and what the environment presents. -/
structure SameBlock (s s' : State) : Prop where
  cnt : s.cnt = s'.cnt
  frame : s.frame = s'.frame
  cfg : s.cfg = s'.cfg
  input : s.input = s'.input

/-- The event an output presents, if it is one. -/
def Output.events : Output → List Event
  | .event e => [e]
  | .idle => []
  | .digitEntry _ _ _ => []
  | .lanes _ _ => []

theorem Output.events_eq_nil {o : Output} (h : ∀ e, o ≠ .event e) : o.events = [] := by
  cases o with
  | event e => exact absurd rfl (h e)
  | idle => rfl
  | digitEntry => rfl
  | lanes => rfl

/-- No operation looks at the model's fields beside the block. -/
theorem StepOp.sameBlock {inp : Option Input} {op : State → State} (h : StepOp inp op)
    {s s' : State} (hs : SameBlock s s') : SameBlock (op s) (op s') ∧ (op s).out = (op s').out := by
  obtain ⟨hcnt, hframe, hcfg, hinput⟩ := hs
  cases h with
  | nothing | noByte => exact ⟨⟨hcnt, hframe, hcfg, hinput⟩, rfl⟩
  | reset | powerOn | invalidTag => exact ⟨⟨rfl, rfl, hcfg, hinput⟩, rfl⟩
  | store b i =>
    beta_reduce
    by_cases hfull : s.cnt = 15#4
    · rw [acceptByte_of_full (s := s.takeByte) i (dataOf b) hfull,
        acceptByte_of_full (s := s'.takeByte) i (dataOf b) (hcnt ▸ hfull)]
      exact ⟨⟨rfl, rfl, hcfg, hinput⟩, rfl⟩
    · rw [acceptByte_of_ne (s := s.takeByte) i (dataOf b) hfull,
        acceptByte_of_ne (s := s'.takeByte) i (dataOf b) (hcnt ▸ hfull)]
      exact ⟨⟨congrArg (· + 1#4) hcnt, congrArg (·.set i.val (dataOf b)) hframe, hcfg, hinput⟩, rfl⟩
  | terminal b =>
    simp only [acceptTerminal_eq, takeByte_cnt, takeByte_frame, takeByte_cfg, hcnt, hframe, hcfg]
    exact ⟨⟨rfl, rfl, hcfg, hinput⟩, rfl⟩
  | entry => exact ⟨⟨hcnt, hframe, hcfg, hinput⟩, by simp [hcfg]⟩
  | lanes => exact ⟨⟨hcnt, hframe, hcfg, hinput⟩, rfl⟩

theorem step_sameBlock {s s' t t' : State} (hs : SameBlock s s') (h : step s = .next t)
    (h' : step s' = .next t') : SameBlock t t' ∧ t.out = t'.out := by
  obtain ⟨op, hop, hstep⟩ := exists_stepOp s.input
  cases h.symm.trans (hstep s rfl)
  cases h'.symm.trans (hstep s' hs.input.symm)
  exact hop.sameBlock ⟨hs.cnt, hs.frame, hs.cfg, rfl⟩

theorem execResult_trace {s t : State} (hr : ExecResult s t) :
    t.trace.map Prod.snd = s.trace.map Prod.snd ++ t.out.events := by
  obtain ⟨e, -, rfl⟩ | ⟨i, d, -, -, rfl⟩ | ⟨o, ho, rfl⟩ := hr
  · simp [Output.events]
  · simp [Output.events]
  · simp [Output.events_eq_nil ho]

/-- A step appends to the trace the event it presents (60_exceptions R154). -/
theorem step_trace {s t : State} (h : step s = .next t) :
    t.trace.map Prod.snd = s.trace.map Prod.snd ++ t.out.events := by
  obtain ⟨s', i, hr, -, ⟨⟨f, rfl⟩, -⟩ | ⟨rfl, -⟩⟩ | rfl | ⟨o, f, ho, rfl⟩ := step_cases h
  · exact (execResult_trace hr :)
  · exact (execResult_trace hr :)
  · simp [Output.events]
  · simp [Output.events_eq_nil ho]

theorem step_total (s : State) : ∃ t, step s = .next t := by
  obtain ⟨op, -, hstep⟩ := exists_stepOp s.input
  exact ⟨_, hstep s rfl⟩

/-- Settles O27, by induction on the number of steps. -/
theorem noHiddenState : Obligations.NoHiddenState := by
  intro n
  induction n with
  | zero =>
    intro s s' t t' hcnt hframe hcfg hinput h h'
    cases h
    cases h'
    exact ⟨hcnt, hframe, hcfg, hinput, fun h0 => absurd h0 (Nat.lt_irrefl 0), [], by simp⟩
  | succ n ih =>
    intro s s' t t' hcnt hframe hcfg hinput h h'
    obtain ⟨u, hu⟩ := step_total s
    obtain ⟨u', hu'⟩ := step_total s'
    rw [run_succ n hu] at h
    rw [run_succ n hu'] at h'
    obtain ⟨hblock, hout⟩ := step_sameBlock ⟨hcnt, hframe, hcfg, hinput⟩ hu hu'
    obtain ⟨hc, hf, hg, hi, ho, es, hes, hes'⟩ :=
      ih u u' t t' hblock.cnt hblock.frame hblock.cfg hblock.input h h'
    refine ⟨hc, hf, hg, hi, fun _ => ?_, u.out.events ++ es, ?_, ?_⟩
    · cases n with
      | zero => cases h; cases h'; exact hout
      | succ m => exact ho (Nat.succ_pos m)
    · rw [hes, step_trace hu, List.append_assoc]
    · rw [hes', step_trace hu', hout, List.append_assoc]

/-! ### What the bytes of an attempt assemble -/

/-- A run over `bs ++ cs` is a run over `bs` and a run over `cs`. -/
theorem runBytes_append {s t : State} {bs : List Byte} (cs : List Byte)
    (h : runBytes bs s = .next t) : runBytes (bs ++ cs) s = runBytes cs t := by
  induction bs generalizing s with
  | nil => cases h; rfl
  | cons b bs ih =>
    obtain ⟨u, hu, -⟩ := exec_result (decodeByte b) { s with taken := s.taken + 1 }
    rw [runBytes_cons b bs hu] at h
    rw [List.cons_append, runBytes_cons b (bs ++ cs) hu]
    exact ih h

theorem frameAfter_nil : frameAfter [] = Frame.zero := by decide

/-- One more byte replaces the slot of its tag (40_frame_assembler R55). -/
theorem frameAfter_concat (bs : List Byte) {b : Byte} {i : Fin 14}
    (hb : (tagOf b).toNat = i.val + 1) :
    frameAfter (bs ++ [b]) = (frameAfter bs).set i.val (dataOf b) i.isLt := by
  ext1 j hj
  by_cases hij : i.val = j
  · simp [frameAfter, slotAfter, hb, hij]
  · simp [frameAfter, slotAfter, hb, hij]

/-- A run over one non-terminal byte that is not the 16th. -/
theorem runBytes_nonTerminal {s : State} {b : Byte} {i : Fin 14} (hi : i ≠ 13)
    (hb : (tagOf b).toNat = i.val + 1) (hcnt : s.cnt ≠ 15#4) :
    runBytes [b] s = .next { s with
      frame := s.frame.set i.val (dataOf b) i.isLt, cnt := s.cnt + 1#4, taken := s.taken + 1,
      out := .idle } := by
  have hexec := exec_nonTerminal hi hb { s with taken := s.taken + 1 }
  rw [acceptByte_of_ne (s := { s with taken := s.taken + 1 }) i _ hcnt] at hexec
  exact runBytes_cons b [] hexec

/-- Settles O28, by induction on the bytes from the last one. -/
theorem acceptedBytesAssembleTheFrame : Obligations.AcceptedBytesAssembleTheFrame := by
  intro s bs hclean
  obtain ⟨hcnt, hframe⟩ := hclean
  induction bs using List.reverseRecOn with
  | nil =>
    intro _ _
    rw [runBytes_nil, frameAfter_nil, ← hframe]
    simp [← hcnt]
  | append_singleton bs b ih =>
    intro hlen hall
    rw [List.length_append, List.length_singleton] at hlen
    obtain ⟨i, hi, hb⟩ := exists_slot_of_nonTerminal (hall b (by simp))
    have hrun := ih (by omega) fun c hc => hall c (List.mem_append_left _ hc)
    have hlt : BitVec.ofNat 4 bs.length ≠ 15#4 := by
      rw [ne_eq, ← BitVec.toNat_inj, BitVec.toNat_ofNat, BitVec.toNat_ofNat]
      omega
    rw [runBytes_append [b] hrun, runBytes_nonTerminal hi hb hlt, frameAfter_concat bs hb]
    simp [BitVec.ofNat_add, Nat.add_assoc]

/-! ### The readers and the writers of a slot -/

/-- Only an operation that completes a frame reads the slots: any other presents, emits and counts the same
whatever they hold, and each slot it does not write holds what it held. -/
theorem StepOp.frame_irrel {inp : Option Input} {op : State → State} (h : StepOp inp op)
    (s : State) (f : Frame) (hc : (op s).out.evCode ≠ 1#3) :
    op { s with frame := f } = { op s with frame := (op { s with frame := f }).frame } ∧
      ∀ j : Fin 14, (op { s with frame := f }).frame[j] = (op s).frame[j] ∨
        ((op s).frame[j] = s.frame[j] ∧ (op { s with frame := f }).frame[j] = f[j]) := by
  cases h with
  | nothing | noByte | entry | lanes => exact ⟨rfl, fun _ => .inr ⟨rfl, rfl⟩⟩
  | reset | powerOn | invalidTag => exact ⟨rfl, fun _ => .inl rfl⟩
  | store b i =>
    beta_reduce
    by_cases hfull : s.cnt = 15#4
    · rw [acceptByte_of_full (s := s.takeByte) i (dataOf b) hfull,
        acceptByte_of_full (s := State.takeByte { s with frame := f }) i (dataOf b) hfull]
      exact ⟨rfl, fun _ => .inl rfl⟩
    · rw [acceptByte_of_ne (s := s.takeByte) i (dataOf b) hfull,
        acceptByte_of_ne (s := State.takeByte { s with frame := f }) i (dataOf b) hfull]
      refine ⟨rfl, fun j => ?_⟩
      by_cases hij : i.val = j.val
      · exact .inl (by simp [hij])
      · exact .inr (by simp [hij])
  | terminal b =>
    simp only [acceptTerminal_eq] at hc ⊢
    have hev := terminalEvent_frame_irrel hc f
    simp only [takeByte_cnt, takeByte_frame, takeByte_cfg] at hev ⊢
    rw [hev]
    exact ⟨rfl, fun _ => .inl rfl⟩

/-- Settles O49: both states undergo the operation of the same input. -/
theorem slotsAreReadOnlyByCompleteFrame : Obligations.SlotsAreReadOnlyByCompleteFrame := by
  intro s t t' f h h' hc
  obtain ⟨op, hop, hstep⟩ := exists_stepOp s.input
  cases h.symm.trans (hstep s rfl)
  cases h'.symm.trans (hstep { s with frame := f } rfl)
  obtain ⟨heq, hslot⟩ := hop.frame_irrel { s with input := s.input.tail } f hc
  exact ⟨(congrArg State.out heq :), (congrArg State.trace heq :), (congrArg State.cnt heq :), heq,
    hslot⟩

/-- Settles O50, by the operation of the input: only a store that ends nothing writes a slot and leaves the
others. -/
theorem slotsAreWrittenOnlyByTheirTag : Obligations.SlotsAreWrittenOnlyByTheirTag := by
  intro s t h j
  obtain ⟨op, hop, hstep⟩ := exists_stepOp s.input
  cases h.symm.trans (hstep s rfl)
  generalize s.input.head? = inp at hop ⊢
  cases hop with
  | nothing | noByte | entry | lanes => exact .inl rfl
  | reset v b => exact .inr (.inl ⟨⟨rfl, rfl⟩, .inr ⟨v, b, rfl⟩⟩)
  | powerOn | invalidTag => exact .inr (.inl ⟨⟨rfl, rfl⟩, .inl ⟨_, rfl⟩⟩)
  | terminal b =>
    beta_reduce
    rw [acceptTerminal_eq]
    exact .inr (.inl ⟨⟨rfl, rfl⟩, .inl ⟨_, rfl⟩⟩)
  | store b i hi hb =>
    beta_reduce
    obtain ⟨-, heq⟩ | ⟨-, heq⟩ :=
      acceptByte_cases i (dataOf b) (State.takeByte { s with input := s.input.tail }) <;> rw [heq]
    · by_cases hij : i.val = j.val
      · exact .inr (.inr ⟨b, rfl, hij ▸ hb, by simp [hij]⟩)
      · exact .inl (by simp [hij])
    · exact .inr (.inl ⟨⟨rfl, rfl⟩, .inl ⟨_, rfl⟩⟩)

/-! ### The reset state -/

/-- Settles O10, from the reset values (10_state R19). -/
theorem stateAfterReset : Obligations.StateAfterReset :=
  ⟨rfl, fun i => by simp [State.reset, Frame.zero], rfl, rfl⟩

theorem reset_isClean : State.reset.IsClean := ⟨rfl, rfl⟩

/-- Nothing is delivered yet. -/
theorem reset_traceInv : TraceInv State.reset := by
  simp [TraceInv, State.reset]

/-- Settles O25: the frame is CLEAN, the trace is empty, the table is the default one. -/
theorem resetMeetsTheInvariants : Obligations.ResetMeetsTheInvariants :=
  ⟨reset_isClean, frameInv_of_isClean reset_isClean, reset_traceInv, defaultLut_admissible, rfl⟩

end Sys2Proof.Machine

namespace Sys2Proof.Machine

/-! Proofs of the statements of 20_memory.md: what a step does with its input and the parameters, that the
table rows only read, and what the DigitTable maps. -/

/-! ### The environment of a step -/

/-- Settles O12, by the input: a byte's class changes none of the three fields, any other input takes no
byte. -/
theorem stepConsumesInputAndKeepsTheParameters :
    Obligations.StepConsumesInputAndKeepsTheParameters := by
  intro s t h
  match hin : s.input with
  | [] =>
    cases h.symm.trans (step_nil hin)
    exact ⟨rfl, hin, rfl⟩
  | .cycle true v b :: rest =>
    cases h.symm.trans (step_reset hin)
    exact ⟨rfl, rfl, rfl⟩
  | .cycle false false b :: rest =>
    cases h.symm.trans (step_noByte hin)
    exact ⟨rfl, rfl, rfl⟩
  | .cycle false true b :: rest =>
    obtain ⟨hinput, -, hcfg, htaken⟩ := exec_environment ((step_presented hin).symm.trans h)
    exact ⟨hcfg, hinput, htaken⟩
  | .segCode c f :: rest =>
    cases h.symm.trans (step_segCode hin)
    exact ⟨rfl, rfl, rfl⟩
  | .attrMask m f :: rest =>
    cases h.symm.trans (step_attrMask hin)
    exact ⟨rfl, rfl, rfl⟩

/-! ### The table rows as reads -/

/-- A row of a table changes nothing but the output it presents, which is no event (20_memory R31). -/
theorem exec_tableRow {i : Instr} (hi : i.isByteClass = false) (s : State) :
    ∃ o : Output, o.evCode = 0#3 ∧ exec i s = .next { s with out := o } := by
  obtain hb | hseg | hattr := instr_formats i
  · exact absurd hb (Bool.eq_false_iff.mp hi)
  · obtain ⟨⟨c, _⟩, hr, rfl⟩ := List.mem_map.mp hseg
    exact ⟨_, rfl, exec_of_mem_segCodeRows hr s⟩
  · obtain ⟨⟨m, _⟩, hr, rfl⟩ := List.mem_map.mp hattr
    exact ⟨_, rfl, exec_of_mem_attrMaskRows hr s⟩

/-- Settles O22: a row of a table writes the output alone. -/
theorem tableRowsLeaveTheBlockAlone : Obligations.TableRowsLeaveTheBlockAlone := by
  intro i s hi
  obtain ⟨o, hev, hexec⟩ := exec_tableRow hi s
  exact ⟨_, hexec, rfl, fun _ => rfl, rfl, rfl, rfl, rfl, rfl, hev⟩

/-! ### What the DigitTable maps -/

theorem mem_allGlyphs (g : Glyph) : g ∈ allGlyphs := by
  cases g with
  | digit n => exact List.mem_append_left _ (List.mem_ofFn.mpr ⟨n, rfl⟩)
  | overflow => simp [allGlyphs]
  | blank => simp [allGlyphs]

/-- A table with distinct codes misses exactly the codes it has no entry for (41_digit_decoder R87). -/
theorem lookUp_ne_invalid_iff {lut : DigitLut} (hs : (lut.map Prod.fst).Pairwise (· ≠ ·))
    (c : SegCode) : lookUp lut c ≠ .invalid ↔ c ∈ lut.map Prod.fst := by
  constructor
  · intro h
    cases hl : lookUp lut c with
    | invalid => exact absurd hl h
    | glyph g => exact List.mem_map.mpr ⟨(c, g), mem_of_lookUp hl, rfl⟩
  · intro h
    obtain ⟨⟨_, g⟩, hg, rfl⟩ := List.mem_map.mp h
    simp [lookUp_of_mem hs hg]

/-- In an admissible table each glyph has one code (41_digit_decoder R100 (b)). -/
theorem lutAdmissible.existsUnique_code {lut : DigitLut} (h : lutAdmissible lut) (g : Glyph) :
    ∃! c : SegCode, lookUp lut c = .glyph g := by
  have hcodes := h.codes_distinct
  obtain ⟨-, -, hnodup, honto, -⟩ := h
  obtain ⟨⟨c, _⟩, hc, rfl⟩ := List.mem_map.mp (honto g (mem_allGlyphs g))
  refine ⟨c, lookUp_of_mem hcodes hc, fun c' hc' => ?_⟩
  exact congrArg Prod.fst (List.inj_on_of_nodup_map hnodup (mem_of_lookUp hc') hc rfl)

/-- The codes that do not miss are the table's, each once. -/
theorem filter_lookUp_perm {lut : DigitLut} (hs : (lut.map Prod.fst).Pairwise (· ≠ ·)) :
    (((List.finRange 128).map BitVec.ofFin).filter fun c : SegCode =>
      lookUp lut c != .invalid).Perm (lut.map Prod.fst) := by
  have hcodes : ((List.finRange 128).map (BitVec.ofFin (w := 7))).Nodup :=
    (List.nodup_finRange 128).map fun _ _ h => BitVec.ofFin.inj h
  rw [List.perm_ext_iff_of_nodup (hcodes.filter _) hs]
  intro c
  have hc : c ∈ (List.finRange 128).map BitVec.ofFin :=
    List.mem_map.mpr ⟨c.toFin, List.mem_finRange _, rfl⟩
  rw [List.mem_filter, bne_iff_ne, lookUp_ne_invalid_iff hs]
  exact and_iff_right hc

/-- Of the 128 codes, those that miss are those the table has no entry for. -/
theorem countP_invalid {lut : DigitLut} (hs : (lut.map Prod.fst).Pairwise (· ≠ ·)) :
    (List.finRange 128).countP (fun n => lookUp lut (BitVec.ofFin n) == .invalid) + lut.length =
      128 := by
  have hhits := (filter_lookUp_perm hs).length_eq
  rw [← List.countP_eq_length_filter, List.countP_map, List.length_map] at hhits
  have hsplit := List.length_eq_countP_add_countP
    (fun n : Fin 128 => lookUp lut (BitVec.ofFin n) == .invalid) (l := List.finRange 128)
  simp only [List.length_finRange, decide_not, Bool.decide_eq_true] at hsplit
  rw [← hhits]
  exact hsplit.symm

/-- Settles O38: each glyph has one code, and the 12 entries leave 116 of the 128 codes. -/
theorem twelveCodesMapOntoTheSymbols : Obligations.TwelveCodesMapOntoTheSymbols := by
  intro lut h
  refine ⟨h.existsUnique_code, ?_⟩
  have hcount := countP_invalid h.codes_distinct
  obtain ⟨-, hlength, -⟩ := h
  omega

end Sys2Proof.Machine

namespace Sys2Proof.Machine

/-! Proofs of the statements of 30_encoding.md: that decoding and encoding agree, how an attempt ends, the
packets FRAME14 and FRAME13, and the codes and the packing of the ports. -/

/-! ### A byte as tag and data nibble -/

@[simp] theorem tagOf_byteOf (t d : Nibble) : tagOf (byteOf t d) = t := BitVec.extractLsb'_append_eq_left

@[simp] theorem dataOf_byteOf (t d : Nibble) : dataOf (byteOf t d) = d := BitVec.extractLsb'_append_eq_right

@[simp] theorem byteOf_tagOf_dataOf (b : Byte) : byteOf (tagOf b) (dataOf b) = b :=
  BitVec.extractLsb'_append_extractLsb'

/-- Masking the low nibble leaves the tag. -/
theorem and_tagMask_eq_iff (b : Byte) (t : Nibble) : b &&& 0xF0#8 = byteOf t 0#4 ↔ tagOf b = t := by
  have hmask : b &&& 0xF0#8 = byteOf (tagOf b) 0#4 := by revert b; decide
  rw [hmask]
  exact BitVec.append_left_inj 0#4

/-! ### Decoding and encoding agree -/

/-- The 16 tags one by one. -/
theorem nibble_cases : ∀ t : Nibble, t = 0#4 ∨ t = 1#4 ∨ t = 2#4 ∨ t = 3#4 ∨ t = 4#4 ∨ t = 5#4 ∨ t = 6#4 ∨
    t = 7#4 ∨ t = 8#4 ∨ t = 9#4 ∨ t = 10#4 ∨ t = 11#4 ∨ t = 12#4 ∨ t = 13#4 ∨ t = 14#4 ∨
    t = 15#4 := by decide

/-- The word of the class of a tag is the byte with that tag (30_encoding R47). -/
theorem encode_classOf (t d : Nibble) : encode (classOf t d) = .byte (byteOf t d) := by
  rcases nibble_cases t with rfl | rfl | rfl | rfl | rfl | rfl | rfl | rfl | rfl | rfl | rfl | rfl | rfl |
    rfl | rfl | rfl <;> rfl

/-- Only the class of the byte 0x00 is shut out: that byte is `PWRON` (30_encoding R40). -/
theorem wf_classOf_iff (t d : Nibble) : (classOf t d).wf = true ↔ byteOf t d ≠ 0x00#8 := by
  revert t d; decide

/-- A class of input byte is `PWRON` or the class of a tag (30_encoding R39). -/
theorem exists_classOf_of_isByteClass {i : Instr} (h : i.isByteClass = true) :
    i = .pwron ∨ ∃ t d, i = classOf t d := by
  cases i with
  | pwron => exact .inl rfl
  | bad0 d => exact .inr ⟨0#4, d, rfl⟩
  | st1 d => exact .inr ⟨1#4, d, rfl⟩
  | st2 d => exact .inr ⟨2#4, d, rfl⟩
  | st3 d => exact .inr ⟨3#4, d, rfl⟩
  | st4 d => exact .inr ⟨4#4, d, rfl⟩
  | st5 d => exact .inr ⟨5#4, d, rfl⟩
  | st6 d => exact .inr ⟨6#4, d, rfl⟩
  | st7 d => exact .inr ⟨7#4, d, rfl⟩
  | st8 d => exact .inr ⟨8#4, d, rfl⟩
  | st9 d => exact .inr ⟨9#4, d, rfl⟩
  | st10 d => exact .inr ⟨10#4, d, rfl⟩
  | st11 d => exact .inr ⟨11#4, d, rfl⟩
  | st12 d => exact .inr ⟨12#4, d, rfl⟩
  | st13 d => exact .inr ⟨13#4, d, rfl⟩
  | term d => exact .inr ⟨14#4, d, rfl⟩
  | badF d => exact .inr ⟨15#4, d, rfl⟩
  | _ => cases h

/-- Every byte is the word of its class. -/
theorem encode_decodeByte (b : Byte) : encode (decodeByte b) = .byte b := by
  by_cases hz : b = 0x00#8
  · subst hz
    rfl
  · rw [decodeByte, if_neg hz, encode_classOf, byteOf_tagOf_dataOf]

/-- The class of a byte that is not 0x00 is what the byte decodes to. -/
theorem decodeByte_byteOf {t d : Nibble} (hz : byteOf t d ≠ 0x00#8) :
    decodeByte (byteOf t d) = classOf t d := by
  rw [decodeByte, if_neg hz, tagOf_byteOf, dataOf_byteOf]

/-- Each row of the DigitTable has its code as its word, and no other row has that code. -/
theorem segCodeRows_encode : ∀ r ∈ segCodeRows,
    r.2.wf = true ∧ encode r.2 = .segCode r.1 ∧ decodeSegCode r.1 = some r.2 := by decide

/-- Each row of the AttributeTable has its mask as its word, and no other row has that mask. -/
theorem attrMaskRows_encode : ∀ r ∈ attrMaskRows,
    r.2.wf = true ∧ encode r.2 = .attrMask r.1 ∧ decodeAttrMask r.1 = some r.2 := by decide

/-- Settles O3, by the three formats. -/
theorem decodeInvertsEncode : Obligations.DecodeInvertsEncode := by
  intro i hwf
  obtain hbyte | hseg | hattr := instr_formats i
  · obtain rfl | ⟨t, d, rfl⟩ := exists_classOf_of_isByteClass hbyte
    · rfl
    · rw [encode_classOf]
      exact congrArg some (decodeByte_byteOf ((wf_classOf_iff t d).mp hwf))
  · obtain ⟨r, hr, rfl⟩ := List.mem_map.mp hseg
    obtain ⟨-, henc, hdec⟩ := segCodeRows_encode r hr
    rw [henc]
    exact hdec
  · obtain ⟨r, hr, rfl⟩ := List.mem_map.mp hattr
    obtain ⟨-, henc, hdec⟩ := attrMaskRows_encode r hr
    rw [henc]
    exact hdec

/-- Settles O4, by the three formats. -/
theorem encodeInvertsDecode : Obligations.EncodeInvertsDecode := by
  intro w i h
  cases w with
  | byte b =>
    cases h
    exact ⟨decodeByte_wf b, encode_decodeByte b⟩
  | segCode c =>
    obtain ⟨hwf, henc, -⟩ := segCodeRows_encode _ (mem_of_decodeSegCode h)
    exact ⟨hwf, henc⟩
  | attrMask m =>
    obtain ⟨hwf, henc, -⟩ := attrMaskRows_encode _ (mem_of_decodeAttrMask h)
    exact ⟨hwf, henc⟩

/-- Settles O1: each of these words is the word of its instruction. -/
theorem sampleWordsDecodeToTheirInstructions : Obligations.SampleWordsDecodeToTheirInstructions :=
  ⟨decodeInvertsEncode .pwron rfl, decodeInvertsEncode (.bad0 0x5#4) rfl,
    decodeInvertsEncode (.st1 0x6#4) rfl, decodeInvertsEncode (.st2 0x7#4) rfl,
    decodeInvertsEncode (.st3 0xD#4) rfl, decodeInvertsEncode (.st13 0x0#4) rfl,
    decodeInvertsEncode (.term 0x8#4) rfl, decodeInvertsEncode (.badF 0x7#4) rfl,
    decodeInvertsEncode .digit0 rfl, decodeInvertsEncode .digit7 rfl,
    decodeInvertsEncode .digitOverflow rfl, decodeInvertsEncode .kilo rfl,
    decodeInvertsEncode .unknownE8 rfl⟩

/-! ### The class of a byte by its bits -/

/-- A byte has exactly one class: the well-formed instruction whose word it is. -/
theorem decodeByte_eq_iff (b : Byte) (i : Instr) :
    decodeByte b = i ↔ i.wf = true ∧ encode i = .byte b := by
  constructor
  · rintro rfl
    exact ⟨decodeByte_wf b, encode_decodeByte b⟩
  · rintro ⟨hwf, henc⟩
    have hdec := decodeInvertsEncode i hwf
    rw [henc] at hdec
    exact Option.some.inj hdec

theorem decodeByte_eq_pwron_iff (b : Byte) : decodeByte b = .pwron ↔ b = 0x00#8 := by
  rw [decodeByte_eq_iff]
  exact ⟨fun ⟨_, h⟩ => (Word.byte.inj h).symm, fun h => ⟨rfl, h ▸ rfl⟩⟩

/-- A byte is in the class of a tag exactly when it has that tag and is not 0x00 (30_encoding R40). -/
theorem decodeByte_eq_classOf_iff (b : Byte) (t : Nibble) :
    decodeByte b = classOf t (dataOf b) ↔ b &&& 0xF0#8 = byteOf t 0#4 ∧ b ≠ 0x00#8 := by
  rw [decodeByte_eq_iff, wf_classOf_iff, encode_classOf, Word.byte.injEq, and_tagMask_eq_iff]
  constructor
  · rintro ⟨hz, hb⟩
    rw [hb] at hz
    exact ⟨(congrArg tagOf hb).symm.trans (tagOf_byteOf _ _), hz⟩
  · rintro ⟨rfl, hz⟩
    rw [byteOf_tagOf_dataOf]
    exact ⟨hz, rfl⟩

/-- With a tag other than 0 the byte is never 0x00. -/
theorem decodeByte_eq_classOf_iff_of_ne {t : Nibble} (ht : t ≠ 0#4) (b : Byte) :
    decodeByte b = classOf t (dataOf b) ↔ b &&& 0xF0#8 = byteOf t 0#4 := by
  rw [decodeByte_eq_classOf_iff]
  refine and_iff_left_of_imp fun h => ne_zero_of_tagOf ?_
  rwa [(and_tagMask_eq_iff b t).mp h]

/-- The bytes 0x01 to 0x0F by their highest bit that is set. -/
theorem bad0_patterns : ∀ b : Byte, b &&& 0xF0#8 = 0x00#8 ∧ b ≠ 0x00#8 ↔
    b &&& 0xF8#8 = 0x08#8 ∨ b &&& 0xFC#8 = 0x04#8 ∨ b &&& 0xFE#8 = 0x02#8 ∨ b = 0x01#8 := by decide

/-- Settles O2: every clause but the patterns of `BAD0` is the class of a tag. -/
theorem bytePatternsSelectTheClass : Obligations.BytePatternsSelectTheClass := by
  intro b
  have hclass := fun (t : Nibble) (ht : t ≠ 0#4) => decodeByte_eq_classOf_iff_of_ne ht b
  have hpwron : decodeByte b = .pwron ↔ b &&& 0xFF#8 = 0x00#8 := by
    rw [decodeByte_eq_pwron_iff, show b &&& 0xFF#8 = b from BitVec.and_allOnes]
  exact ⟨hpwron, decodeByte_eq_classOf_iff b 0#4, bad0_patterns b,
    hclass 1#4 (by decide), hclass 2#4 (by decide), hclass 3#4 (by decide), hclass 4#4 (by decide),
    hclass 5#4 (by decide), hclass 6#4 (by decide), hclass 7#4 (by decide), hclass 8#4 (by decide),
    hclass 9#4 (by decide), hclass 10#4 (by decide), hclass 11#4 (by decide), hclass 12#4 (by decide),
    hclass 13#4 (by decide), hclass 14#4 (by decide), hclass 15#4 (by decide), rfl⟩

/-! ### How an attempt ends -/

/-- A run over one byte is its class. -/
theorem runBytes_singleton (b : Byte) (s : State) : runBytes [b] s = exec (decodeByte b) s.takeByte := by
  obtain ⟨t, ht, -⟩ := exec_result (decodeByte b) s.takeByte
  rw [ht, runBytes_cons b [] ht, runBytes_nil]

/-- A run over the bytes of an attempt and one byte more is the class of that byte, at the state the attempt
has come to. -/
theorem runBytes_attempt_concat {s : State} {bs : List Byte} (hclean : s.IsClean) (hlen : bs.length ≤ 15)
    (hall : ∀ b ∈ bs, NonTerminal b) (b : Byte) :
    runBytes (bs ++ [b]) s = exec (decodeByte b) { s with
      cnt := BitVec.ofNat 4 bs.length
      frame := frameAfter bs
      taken := s.taken + bs.length + 1
      out := if bs = [] then s.out else .idle } := by
  rw [runBytes_append [b] (acceptedBytesAssembleTheFrame s bs hclean hlen hall)]
  exact runBytes_singleton b _

/-- A terminal byte ends the attempt with the event that its count and its frame call for. -/
theorem runBytes_attempt_terminal {s : State} {bs : List Byte} (hclean : s.IsClean)
    (hlen : bs.length ≤ 15) (hall : ∀ b ∈ bs, NonTerminal b) (d : Nibble) :
    runBytes (bs ++ [byteOf 14#4 d]) s = .next (({ s with taken := s.taken + bs.length + 1 } : State).afterEvent
      (terminalEvent d (BitVec.ofNat 4 bs.length) (frameAfter bs) s.cfg)) := by
  rw [runBytes_attempt_concat hclean hlen hall, exec_terminal (tagOf_byteOf 14#4 d), acceptTerminal_eq,
    dataOf_byteOf]
  rfl

/-- A non-terminal byte as 16th accepted byte is too long (40_frame_assembler R58). -/
theorem runBytes_attempt_sixteenth {s : State} {bs : List Byte} (hclean : s.IsClean)
    (hlen : bs.length = 15) (hall : ∀ b ∈ bs, NonTerminal b) {b : Byte} (hb : NonTerminal b) :
    runBytes (bs ++ [b]) s = .next (({ s with taken := s.taken + bs.length + 1 } : State).afterEvent
      (.framingError .frameTooLong)) := by
  obtain ⟨i, hi, htag⟩ := exists_slot_of_nonTerminal hb
  rw [runBytes_attempt_concat hclean hlen.le hall, exec_nonTerminal hi htag,
    acceptByte_of_full _ _ (congrArg (BitVec.ofNat 4) hlen)]
  rfl

theorem terminalEvent_of_lt {d : Nibble} {cnt : BitVec 4} {f : Frame} {cfg : Config}
    (h : cnt.toNat < 12) : terminalEvent d cnt f cfg = .framingError .shortFrame := if_pos h

theorem terminalEvent_of_full {d : Nibble} {cnt : BitVec 4} {f : Frame} {cfg : Config}
    (h : cnt = 15#4) (h16 : cfg.term16Completes = false) :
    terminalEvent d cnt f cfg = .framingError .frameTooLong := by
  rw [terminalEvent, if_neg (by rw [h]; decide), if_pos ⟨h, h16⟩]

theorem terminalEvent_of_le {d : Nibble} {cnt : BitVec 4} {f : Frame} {cfg : Config}
    (h : 12 ≤ cnt.toNat) (h16 : cnt = 15#4 → cfg.term16Completes = true) :
    terminalEvent d cnt f cfg =
      .completeFrame (f.set 13 d) (readingOf cfg.digitLut (f.set 13 d)) := by
  rw [terminalEvent, if_neg (Nat.not_lt.mpr h), if_neg]
  rintro ⟨h15, hf⟩
  exact absurd (h16 h15) (Bool.eq_false_iff.mp hf)

/-- Settles O29, by the event of the terminal byte at the count the attempt has come to. -/
theorem attemptEndsByItsCount : Obligations.AttemptEndsByItsCount := by
  intro s bs d hclean hlen hall
  have hcnt : (BitVec.ofNat 4 bs.length).toNat = bs.length := by
    rw [BitVec.toNat_ofNat]
    omega
  have hrun := runBytes_attempt_terminal hclean hlen hall d
  refine ⟨fun hshort => ?_, fun hmin h16 => ?_, fun hfull h16 => ?_,
    fun hfull b hb => runBytes_attempt_sixteenth hclean hfull hall hb⟩
  · rw [hrun, terminalEvent_of_lt (by omega)]
  · rw [hrun, terminalEvent_of_le (by omega) fun h15 => h16 ?_]
    rw [← hcnt, h15]
    rfl
  · rw [hrun, terminalEvent_of_full (congrArg _ hfull) h16]

/-! ### Whole packets -/

/-- The byte of slot `i` in a packet of a frame (30_encoding R48). -/
def slotByte (f : Frame) (i : Fin 14) : Byte := byteOf (BitVec.ofNat 4 (i.val + 1)) f[i]

/-- The frame with every slot but those of a list at 0. -/
def keepSlots (f : Frame) (is : List (Fin 14)) : Frame :=
  Vector.ofFn fun i => if i ∈ is then f[i] else 0#4

/-- Slots 0 to 12, whose bytes are not terminal. -/
def storeSlots : List (Fin 14) := (List.finRange 13).map Fin.castSucc

theorem tagOf_slotByte (f : Frame) (i : Fin 14) : (tagOf (slotByte f i)).toNat = i.val + 1 := by
  have := i.isLt
  rw [slotByte, tagOf_byteOf, BitVec.toNat_ofNat]
  omega

theorem dataOf_slotByte (f : Frame) (i : Fin 14) : dataOf (slotByte f i) = f[i] := dataOf_byteOf _ _

theorem nonTerminal_slotByte (f : Frame) {i : Fin 14} (hi : i ≠ 13) : NonTerminal (slotByte f i) := by
  have hlt : i.val < 13 := Fin.val_lt_last (n := 13) hi
  rw [NonTerminal, tagOf_slotByte]
  omega

theorem keepSlots_concat (f : Frame) (is : List (Fin 14)) (i : Fin 14) :
    keepSlots f (is ++ [i]) = (keepSlots f is).set i.val f[i] i.isLt := by
  ext1 j hj
  by_cases hij : i.val = j
  · subst hij
    simp [keepSlots]
  · simp [keepSlots, hij, Fin.ext_iff, Ne.symm hij]

/-- The bytes of these slots assemble the frame in these slots. -/
theorem frameAfter_slotBytes (f : Frame) (is : List (Fin 14)) :
    frameAfter (is.map (slotByte f)) = keepSlots f is := by
  induction is using List.reverseRecOn with
  | nil => rw [List.map_nil, frameAfter_nil]; rfl
  | append_singleton is i ih =>
    rw [List.map_append, List.map_singleton, frameAfter_concat _ (tagOf_slotByte f i), ih,
      dataOf_slotByte, keepSlots_concat]

/-- 12 to 14 bytes of slots below 13 and the terminal byte give one `CompleteFrame` of those slots. -/
theorem runBytes_packet {s : State} (hclean : s.IsClean) (f : Frame) {is : List (Fin 14)}
    (h13 : ∀ i ∈ is, i ≠ 13) (hmin : 12 ≤ is.length) (hmax : is.length < 15) :
    runBytes ((is ++ [13]).map (slotByte f)) s =
      .next (({ s with taken := s.taken + is.length + 1 } : State).afterEvent (.completeFrame
        (keepSlots f (is ++ [13])) (readingOf s.cfg.digitLut (keepSlots f (is ++ [13]))))) := by
  have hall : ∀ b ∈ is.map (slotByte f), NonTerminal b := by
    intro b hb
    obtain ⟨i, hi, rfl⟩ := List.mem_map.mp hb
    exact nonTerminal_slotByte f (h13 i hi)
  have hlen := List.length_map (as := is) (slotByte f)
  obtain ⟨-, hcomplete, -⟩ := attemptEndsByItsCount s (is.map (slotByte f)) f[13] hclean (by omega) hall
  have hrun := hcomplete (by omega) (by omega)
  rw [frameAfter_slotBytes, hlen] at hrun
  rw [keepSlots_concat, List.map_append]
  exact hrun

theorem frame14_eq (f : Frame) : frame14 f = (storeSlots ++ [13]).map (slotByte f) := by
  rw [frame14, List.ofFn_eq_map, List.finRange_succ_last]
  rfl

theorem frame13_eq (f : Frame) : frame13 f = (storeSlots.tail ++ [13]).map (slotByte f) := by
  rw [frame13, frame14_eq]
  rfl

/-- FRAME14 has a byte for every slot. -/
theorem keepSlots_frame14 (f : Frame) : keepSlots f (storeSlots ++ [13]) = f := by
  have hall : ∀ i : Fin 14, i ∈ storeSlots ++ [13] := by decide
  ext1 i hi
  simp only [keepSlots, Vector.getElem_ofFn, if_pos (hall ⟨i, hi⟩)]
  rfl

/-- FRAME13 has a byte for every slot but slot 0. -/
theorem keepSlots_frame13 (f : Frame) : keepSlots f (storeSlots.tail ++ [13]) = f.set 0 0#4 := by
  have hmem : ∀ i : Fin 14, i ∈ storeSlots.tail ++ [13] ↔ i ≠ 0 := by decide
  ext1 i hi
  simp only [keepSlots, Vector.getElem_ofFn, Vector.getElem_set, hmem, ne_eq, ite_not, Fin.ext_iff,
    eq_comm (a := i)]
  rfl

/-- Settles O33: the packets have 13 and 12 bytes before the terminal one. -/
theorem wholePacketsAreComplete : Obligations.WholePacketsAreComplete := by
  intro s f hclean
  have h14 := runBytes_packet hclean f (is := storeSlots) (by decide) (by decide) (by decide)
  have h13 := runBytes_packet hclean f (is := storeSlots.tail) (by decide) (by decide) (by decide)
  rw [← frame14_eq, keepSlots_frame14] at h14
  rw [← frame13_eq, keepSlots_frame13] at h13
  exact ⟨h14, h13⟩

/-! ### The codes of the events -/

theorem evCode_of_ne_event {o : Output} (h : ∀ e : Event, o ≠ .event e) : o.evCode = 0#3 := by
  cases o with
  | event e => exact absurd rfl (h e)
  | idle => rfl
  | digitEntry => rfl
  | lanes => rfl

/-- Bit 2 of the code marks the framing errors (30_encoding R42, decision D4). -/
theorem evCode_getLsbD_two_iff (o : Output) :
    o.evCode.getLsbD 2 = true ↔ ∃ y : FramingReason, o = .event (.framingError y) := by
  match o with
  | .event (.framingError y) => cases y <;> exact iff_of_true rfl ⟨_, rfl⟩
  | .event (.completeFrame _ _) | .event .powerOn | .idle | .digitEntry _ _ _ | .lanes _ _ =>
    exact iff_of_false (by simp [Output.evCode, Event.code]) (by simp)

/-- The codes 3 and 7 are spare. -/
theorem evCode_ne_spare (o : Output) : o.evCode ≠ 3#3 ∧ o.evCode ≠ 7#3 := by
  match o with
  | .event (.framingError y) => cases y <;> simp [Output.evCode, Event.code]
  | .event (.completeFrame _ _) | .event .powerOn | .idle | .digitEntry _ _ _ | .lanes _ _ =>
    simp [Output.evCode, Event.code]

theorem evValid_iff (o : Output) : o.evValid = true ↔ o.evCode ≠ 0#3 := bne_iff_ne

/-- Settles O46, by the kind of output and of event. -/
theorem eventCodes : Obligations.EventCodes :=
  ⟨rfl, fun _ => evCode_of_ne_event, fun _ _ => rfl, rfl, rfl, rfl, rfl, fun o =>
    ⟨(evCode_ne_spare o).1, (evCode_ne_spare o).2, evCode_getLsbD_two_iff o, evValid_iff o⟩⟩

/-! ### The packing of the ports -/

/-- The lowest field left off, the others stand one field lower. -/
theorem extractLsb'_append_succ {v w : Nat} (hi : BitVec v) (lo : BitVec w) (k : Nat) :
    (hi ++ lo).extractLsb' (w * (k + 1)) w = hi.extractLsb' (w * k) w := by
  rw [BitVec.extractLsb'_append_eq_of_le (Nat.le_mul_of_pos_right w k.succ_pos), Nat.mul_succ,
    Nat.add_sub_cancel]

/-- Of four fields of `w` bits, field `k` stands at bit `w * k`. -/
theorem extractLsb'_append_four {w : Nat} (x : Fin 4 → BitVec w) (k : Fin 4) :
    (x 3 ++ x 2 ++ x 1 ++ x 0).extractLsb' (w * k.val) w = x k := by
  match k with
  | 0 => exact BitVec.extractLsb'_append_eq_right
  | 1 => exact (extractLsb'_append_succ _ _ 0).trans BitVec.extractLsb'_append_eq_right
  | 2 =>
    exact (extractLsb'_append_succ _ _ 1).trans
      ((extractLsb'_append_succ _ _ 0).trans BitVec.extractLsb'_append_eq_right)
  | 3 =>
    exact (extractLsb'_append_succ _ _ 2).trans ((extractLsb'_append_succ _ _ 1).trans
      ((extractLsb'_append_succ _ _ 0).trans BitVec.extractLsb'_eq_self))

/-- The number that a list of bits stands for, the first at bit 0. -/
theorem testBit_foldr_toNat (l : List Bool) (i : Nat) :
    (l.foldr (fun (b : Bool) acc => b.toNat + 2 * acc) 0).testBit i = l[i]?.getD false := by
  induction l generalizing i with
  | nil => simp
  | cons b bs ih =>
    rw [List.foldr_cons]
    cases i with
    | zero => cases b <;> simp [Nat.testBit_zero, Nat.add_mod]
    | succ i =>
      rw [Nat.testBit_succ, List.getElem?_cons_succ, ← ih]
      congr 1
      have := b.toNat_lt
      omega

/-- Bit `i` of packed Booleans is the Boolean at index `i` (30_encoding R44). -/
theorem packBools_getLsbD {n : Nat} (v : Vector Bool n) (i : Fin n) :
    (packBools v).getLsbD i.val = v[i] := by
  rw [packBools, BitVec.getLsbD_ofNat, testBit_foldr_toNat]
  simp

theorem symbolCode_digit (n : Fin 10) : (Symbol.glyph (.digit n)).code.toNat = n.val := by
  revert n; decide

/-- Settles O47: each port of four fields is one field after the other, each port of marks is packed
Booleans. -/
theorem portPacking : Obligations.PortPacking := by
  refine ⟨fun f r => ⟨⟨_, rfl, packFrame_slot f⟩,
    ⟨_, rfl, fun k => extractLsb'_append_four (fun k : Fin 4 => r.sym[k].code) k⟩,
    ⟨_, rfl, fun k => extractLsb'_append_four (fun k : Fin 4 => r.seg[k]) k⟩,
    ⟨_, rfl, packBools_getLsbD r.inv⟩, ⟨_, rfl, packBools_getLsbD r.dp⟩, rfl, rfl, rfl⟩,
    symbolCode_digit, rfl, rfl, rfl⟩

end Sys2Proof.Machine

namespace Sys2Proof.Machine

/-! Proofs of the statements of 40_frame_assembler.md: what each class of byte does, how the bytes of an attempt
with distinct tags assemble its frame, how many bytes pass without an event, and a run without bytes. -/

/-! ### The tags of a class -/

theorem tagOf_toNat (b : Byte) : (tagOf b).toNat = b.toNat / 16 := by
  have hlt := b.isLt
  rw [tagOf, BitVec.extractLsb'_toNat, Nat.shiftRight_eq_div_pow]
  omega

/-- Some nibble makes the byte a class of tag `t` exactly when that is its tag and it is not 0x00
(30_encoding R39, R40). -/
theorem exists_decodeByte_eq_classOf_iff (b : Byte) (t : Nibble) :
    (∃ d, decodeByte b = classOf t d) ↔ tagOf b = t ∧ b ≠ 0x00#8 := by
  constructor
  · rintro ⟨d, h⟩
    obtain ⟨hwf, henc⟩ := (decodeByte_eq_iff b _).mp h
    rw [encode_classOf, Word.byte.injEq] at henc
    rw [wf_classOf_iff, henc] at hwf
    exact ⟨henc ▸ tagOf_byteOf t d, hwf⟩
  · rintro ⟨rfl, hz⟩
    exact ⟨dataOf b, if_neg hz⟩

/-- The same for a tag that 0x00 does not have. -/
theorem exists_decodeByte_eq_classOf_iff_of_ne (b : Byte) {t : Nibble} (ht : t ≠ 0#4) :
    (∃ d, decodeByte b = classOf t d) ↔ tagOf b = t := by
  rw [exists_decodeByte_eq_classOf_iff]
  exact and_iff_left_of_imp fun h => ne_zero_of_tagOf (h ▸ ht)

/-- The tags that are not accepted (30_encoding R39). -/
theorem not_accepted_iff (b : Byte) : ¬ Accepted b ↔ tagOf b = 0#4 ∨ tagOf b = 15#4 := by
  have hlt := (tagOf b).isLt
  simp only [← BitVec.toNat_inj, BitVec.toNat_ofNat]
  omega

/-- An accepted byte that has not the terminal tag is non-terminal. -/
theorem nonTerminal_of_accepted {b : Byte} (h : Accepted b) (h14 : tagOf b ≠ 14#4) : NonTerminal b := by
  simp only [ne_eq, ← BitVec.toNat_inj, BitVec.toNat_ofNat] at h14
  omega

/-! ### The store classes -/

/-- The classes of the tags 1 to 13 with their slots (40_frame_assembler R59 to R71). -/
def storeClasses (d : Nibble) : List (Instr × Fin 14) :=
  storeSlots.map fun i => (classOf (BitVec.ofNat 4 (i.val + 1)) d, i)

theorem exec_of_mem_storeClasses {d : Nibble} {p : Instr × Fin 14} (hp : p ∈ storeClasses d) (s : State) :
    exec p.1 s = .next (acceptByte p.2 d s) := by
  have hne : ∀ i ∈ storeSlots, i ≠ 13 := by decide
  obtain ⟨i, hi, rfl⟩ := List.mem_map.mp hp
  exact exec_classOf_store i (hne i hi) d s

/-- `t` is `s` with `d` stored in slot `i` and one byte more counted, without an event
(40_frame_assembler R54, R57). -/
def Stored (i : Fin 14) (d : Nibble) (s t : State) : Prop :=
  t.frame[i] = d ∧ (∀ j : Fin 14, j ≠ i → t.frame[j] = s.frame[j]) ∧
    t.cnt.toNat = s.cnt.toNat + 1 ∧ t.out = .idle ∧
    t.cfg = s.cfg ∧ t.input = s.input ∧ t.tableFrame = s.tableFrame ∧ t.taken = s.taken ∧
    t.trace = s.trace

theorem cnt_add_one_toNat {c : BitVec 4} (h : c ≠ 15#4) : (c + 1#4).toNat = c.toNat + 1 := by
  have hlt := c.isLt
  rw [ne_eq, ← BitVec.toNat_inj] at h
  rw [BitVec.toNat_add]
  simp only [BitVec.toNat_ofNat] at h ⊢
  omega

theorem stored_acceptByte (i : Fin 14) (d : Nibble) {s : State} (h : s.cnt.toNat < 15) :
    Stored i d s (acceptByte i d s) := by
  have hne : s.cnt ≠ 15#4 := fun h15 => absurd h (by rw [h15]; decide)
  rw [acceptByte_of_ne i d hne]
  refine ⟨by simp, fun j hj => ?_, cnt_add_one_toNat hne, rfl, rfl, rfl, rfl, rfl, rfl⟩
  exact Vector.getElem_set_ne i.isLt j.isLt (Fin.val_ne_of_ne hj.symm)

theorem exec_stored {d : Nibble} {p : Instr × Fin 14} (hp : p ∈ storeClasses d) {s : State}
    (h : s.cnt.toNat < 15) : ∃ t, exec p.1 s = .next t ∧ Stored p.2 d s t :=
  ⟨_, exec_of_mem_storeClasses hp s, stored_acceptByte p.2 d h⟩

/-- Settles O15: ST2 to ST9 are the 8 store classes after the first. -/
theorem digitSlotStores : Obligations.DigitSlotStores := by
  intro s d hlt p hp
  have hp' : p ∈ ((storeClasses d).drop 1).take 8 := hp
  exact exec_stored (List.mem_of_mem_drop (List.mem_of_mem_take hp')) hlt

/-- Settles O16: these are the first store class and those after ST9. -/
theorem attributeSlotStores : Obligations.AttributeSlotStores := by
  intro s d hlt p hp
  have hp' : p ∈ (storeClasses d).take 1 ++ (storeClasses d).drop 9 := hp
  exact exec_stored ((List.mem_append.mp hp').elim List.mem_of_mem_take List.mem_of_mem_drop) hlt

/-- Settles O17, by the two things a non-terminal byte can do. -/
theorem sixteenthByteIsTooLong : Obligations.SixteenthByteIsTooLong := by
  intro s d i hi
  have hi' : i ∈ (storeClasses d).map Prod.fst := hi
  obtain ⟨p, hp, rfl⟩ := List.mem_map.mp hi'
  rw [exec_of_mem_storeClasses hp]
  refine ⟨fun h15 => congrArg Host.Outcome.next (acceptByte_of_full p.2 d h15), fun t e ht hout => ?_⟩
  cases ht
  obtain ⟨-, heq⟩ | ⟨h15, heq⟩ := acceptByte_cases p.2 d s <;> rw [heq] at hout
  · cases hout
  · cases hout
    exact ⟨h15, rfl⟩

/-! ### The classes that emit an event in every state -/

/-- Settles O13: the byte 0x00 has tag 0, which is not accepted. -/
theorem powerOnInEveryState : Obligations.PowerOnInEveryState := by
  refine ⟨decodeByte_eq_pwron_iff, ?_, fun _ => rfl⟩
  rintro b hacc rfl
  exact absurd hacc (by decide)

/-- Settles O14: the two classes are those of the tags 0 and 15. -/
theorem invalidTagInEveryState : Obligations.InvalidTagInEveryState := by
  refine ⟨fun b => (exists_decodeByte_eq_classOf_iff b 0#4).trans ?_,
    fun b => (exists_decodeByte_eq_classOf_iff_of_ne b (t := 15#4) (by decide)).trans ?_, fun s d i hi => ?_⟩
  · simp only [ne_eq, ← BitVec.toNat_inj, tagOf_toNat, BitVec.le_def, BitVec.toNat_ofNat]
    omega
  · have hlt := b.isLt
    simp only [← BitVec.toNat_inj, tagOf_toNat, BitVec.le_def, BitVec.toNat_ofNat]
    omega
  · obtain rfl | rfl := List.mem_pair.mp hi
    · rfl
    · rfl

/-! ### The terminal byte -/

/-- Slot 13 is the lanes 20 to 23 (42_attribute_mapper R106). -/
theorem attrOf_extractLsb'_slot13 (f : Frame) : (attrOf f).extractLsb' 20 4 = f[13] := by
  rw [attrOf, show 20 = 4 * 5 from rfl, extractLsb'_append_succ, extractLsb'_append_succ,
    extractLsb'_append_succ, extractLsb'_append_succ, extractLsb'_append_succ]
  exact BitVec.extractLsb'_eq_self

/-- Settles O18: the class is that of the tag 14. -/
theorem terminalByteEndsTheAttempt : Obligations.TerminalByteEndsTheAttempt := by
  refine ⟨fun b => (exists_decodeByte_eq_classOf_iff_of_ne b (t := 14#4) (by decide)).trans ?_,
    fun s d => ⟨fun hshort => ?_, fun hmin h16 => ⟨?_, ?_⟩⟩⟩
  · simp only [← BitVec.toNat_inj, tagOf_toNat, BitVec.le_def, BitVec.toNat_ofNat]
    omega
  · exact congrArg Host.Outcome.next (acceptTerminal_of_lt d (Nat.lt_succ_of_le hshort))
  · exact congrArg Host.Outcome.next (acceptTerminal_of_le d hmin h16)
  · exact (attrOf_extractLsb'_slot13 _).trans (Vector.getElem_set_self _)

/-! ### The event of every byte -/

theorem terminalEvent_code (d : Nibble) (cnt : BitVec 4) (f : Frame) (cfg : Config) :
    (terminalEvent d cnt f cfg).code =
      if cnt.toNat ≤ 11 then 5#3 else if cnt = 15#4 ∧ cfg.term16Completes = false then 6#3 else 1#3 := by
  rw [terminalEvent, apply_ite Event.code, apply_ite Event.code]
  simp only [Nat.lt_succ_iff]
  rfl

theorem acceptByte_evCode (i : Fin 14) (d : Nibble) (s : State) :
    (acceptByte i d s).out.evCode = if s.cnt = 15#4 then 6#3 else 0#3 := by
  obtain ⟨h, heq⟩ | ⟨h, heq⟩ := acceptByte_cases i d s
  · rw [heq, if_neg h]
    rfl
  · rw [heq, if_pos h]
    rfl

/-- Settles O20, by the tests in their order: the byte 0x00, the tags not accepted, the terminal tag. -/
theorem eventOfEveryByteAndCount : Obligations.EventOfEveryByteAndCount := by
  intro s b
  by_cases hz : b = 0x00#8
  · subst hz
    exact ⟨_, rfl, rfl⟩
  rw [if_neg hz]
  by_cases hacc : Accepted b
  · rw [if_neg fun h => (not_accepted_iff b).mpr h hacc]
    by_cases h14 : tagOf b = 14#4
    · rw [if_pos h14, exec_terminal h14, acceptTerminal_eq]
      exact ⟨_, rfl, terminalEvent_code _ _ _ _⟩
    · obtain ⟨i, hi, hb⟩ := exists_slot_of_nonTerminal (nonTerminal_of_accepted hacc h14)
      rw [if_neg h14, exec_nonTerminal hi hb]
      exact ⟨_, rfl, acceptByte_evCode _ _ _⟩
  · rw [if_pos ((not_accepted_iff b).mp hacc), exec_invalidTag hz hacc]
    exact ⟨_, rfl, rfl⟩

/-! ### Attempts with distinct tags -/

/-- With distinct tags each byte is the last one of its tag. -/
theorem slotAfter_of_mem {bs : List Byte} (hnd : (bs.map tagOf).Nodup) {b : Byte} (hb : b ∈ bs)
    {i : Fin 14} (htag : (tagOf b).toNat = i.val + 1) : slotAfter bs i = dataOf b := by
  unfold slotAfter
  split
  · next c hc =>
    have hmem : c ∈ bs := List.mem_reverse.mp (List.mem_of_find?_eq_some hc)
    have hctag : (tagOf c).toNat = i.val + 1 := by simpa using List.find?_some hc
    rw [List.inj_on_of_nodup_map hnd hmem hb (BitVec.eq_of_toNat_eq (hctag.trans htag.symm))]
  · next hnone =>
    exact absurd htag (by simpa using List.find?_eq_none.mp hnone b (List.mem_reverse.mpr hb))

theorem slotAfter_of_forall_ne {bs : List Byte} {i : Fin 14}
    (h : ∀ b ∈ bs, (tagOf b).toNat ≠ i.val + 1) : slotAfter bs i = 0#4 := by
  have hnone : bs.reverse.find? (fun b => (tagOf b).toNat == i.val + 1) = none :=
    List.find?_eq_none.mpr fun b hb => by simpa using h b (List.mem_reverse.mp hb)
  rw [slotAfter, hnone]

theorem frameAfter_getElem (bs : List Byte) (i : Fin 14) : (frameAfter bs)[i] = slotAfter bs i :=
  Vector.getElem_ofFn i.isLt

/-- With distinct tags no slot sees the order of arrival (40_frame_assembler R56). -/
theorem frameAfter_perm {bs bs' : List Byte} (hperm : bs.Perm bs') (hnd : (bs.map tagOf).Nodup) :
    frameAfter bs = frameAfter bs' := by
  have hnd' : (bs'.map tagOf).Nodup := (hperm.map tagOf).nodup_iff.mp hnd
  refine congrArg Vector.ofFn (funext fun i => ?_)
  by_cases h : ∃ b ∈ bs, (tagOf b).toNat = i.val + 1
  · obtain ⟨b, hb, htag⟩ := h
    rw [slotAfter_of_mem hnd hb htag, slotAfter_of_mem hnd' (hperm.mem_iff.mp hb) htag]
  · have hne : ∀ b ∈ bs, (tagOf b).toNat ≠ i.val + 1 := fun b hb htag => h ⟨b, hb, htag⟩
    rw [slotAfter_of_forall_ne hne,
      slotAfter_of_forall_ne fun b hb => hne b (hperm.mem_iff.mpr hb)]

/-- There are 13 tags of non-terminal bytes. -/
theorem length_le_of_distinct_tags {bs : List Byte} (hnd : (bs.map tagOf).Nodup)
    (hall : ∀ b ∈ bs, NonTerminal b) : bs.length ≤ 13 := by
  have hnat : ((bs.map tagOf).map BitVec.toNat).Nodup := hnd.map fun _ _ => BitVec.eq_of_toNat_eq
  have hsub : (bs.map tagOf).map BitVec.toNat ⊆ List.range' 1 13 := by
    intro n hn
    obtain ⟨_, ht, rfl⟩ := List.mem_map.mp hn
    obtain ⟨b, hb, rfl⟩ := List.mem_map.mp ht
    have hb' := hall b hb
    rw [List.mem_range'_1]
    omega
  simpa using (hnat.subperm hsub).length_le

/-- Settles O31: both orders are runs over an attempt, of the same number of bytes and the same frame. -/
theorem arrivalOrderDoesNotMatter : Obligations.ArrivalOrderDoesNotMatter := by
  intro s bs bs' hclean hperm hnd hall
  have hlen := length_le_of_distinct_tags hnd hall
  have hlen' := hperm.length_eq
  have hall' : ∀ b ∈ bs', NonTerminal b := fun b hb => hall b (hperm.mem_iff.mpr hb)
  have hnil : bs = [] ↔ bs' = [] := by rw [← List.length_eq_zero_iff, hlen', List.length_eq_zero_iff]
  refine ⟨_, acceptedBytesAssembleTheFrame s bs hclean (by omega) hall, ?_⟩
  rw [acceptedBytesAssembleTheFrame s bs' hclean (by omega) hall', ← hlen', frameAfter_perm hperm hnd]
  simp only [hnil]

/-- With distinct tags a terminal byte at the end is the only one. -/
theorem nonTerminal_of_mem_before_terminal {bs : List Byte} {b : Byte}
    (hnd : ((bs ++ [b]).map tagOf).Nodup) (hacc : ∀ c ∈ bs ++ [b], Accepted c) (h14 : tagOf b = 14#4) :
    ∀ c ∈ bs, NonTerminal c := by
  intro c hc
  rw [List.map_append, List.nodup_append] at hnd
  obtain ⟨-, -, hdisj⟩ := hnd
  have hne := hdisj _ (List.mem_map_of_mem hc) _ (List.mem_map_of_mem (List.mem_singleton_self b))
  exact nonTerminal_of_accepted (hacc c (List.mem_append_left _ hc)) (h14 ▸ hne)

/-- Settles O30: the bytes before the terminal one are 12 or 13 and non-terminal, and the frame is the one that
all the bytes assemble. -/
theorem distinctTagsCompleteTheFrame : Obligations.DistinctTagsCompleteTheFrame := by
  rintro s bs hclean hlen hnd hacc ⟨b, hlast, h14⟩
  refine ⟨frameAfter bs, ?_, fun c hc i htag => ?_, fun i hne => ?_⟩
  · obtain ⟨cs, rfl⟩ := List.getLast?_eq_some_iff.mp hlast
    have hall := nonTerminal_of_mem_before_terminal hnd hacc h14
    rw [List.length_append, List.length_singleton] at hlen ⊢
    obtain ⟨-, hcomplete, -⟩ := attemptEndsByItsCount s cs (dataOf b) hclean (by omega) hall
    have hrun := hcomplete (by omega) (by omega)
    rw [← h14, byteOf_tagOf_dataOf] at hrun
    rw [frameAfter_concat cs (i := 13) (by rw [h14]; rfl)]
    exact hrun
  · rw [frameAfter_getElem, slotAfter_of_mem hnd hc htag]
  · rw [frameAfter_getElem, slotAfter_of_forall_ne hne]

/-! ### How many bytes pass without an event -/

/-- Bytes either add an event or are counted one by one. -/
theorem runBytes_event_or_count (s : State) (bs : List Byte) :
    ∃ t, runBytes bs s = .next t ∧ s.trace.length ≤ t.trace.length ∧
      (t.trace.length = s.trace.length → t.cnt.toNat = s.cnt.toNat + bs.length) := by
  induction bs generalizing s with
  | nil => exact ⟨s, runBytes_nil s, Nat.le_refl _, fun _ => rfl⟩
  | cons b bs ih =>
    obtain ⟨e, -, hexec⟩ | ⟨j, d, -, hne, hexec⟩ := exec_byteClass (decodeByte_isByteClass b) s.takeByte
    · rw [runBytes_cons b bs hexec]
      obtain ⟨t, hrun, hle, -⟩ := ih (s.takeByte.afterEvent e)
      rw [afterEvent_trace, List.length_append, List.length_singleton, takeByte_trace] at hle
      exact ⟨t, hrun, by omega, fun heq => by omega⟩
    · rw [runBytes_cons b bs hexec]
      obtain ⟨t, hrun, hle, hcnt⟩ := ih _
      refine ⟨t, hrun, hle, fun heq => ?_⟩
      rw [hcnt heq, List.length_cons, cnt_add_one_toNat hne, takeByte_cnt]
      omega

/-- Settles O32: cnt has no room for 16 bytes more. -/
theorem sixteenBytesGiveAnEvent : Obligations.SixteenBytesGiveAnEvent := by
  intro s bs hlen
  obtain ⟨t, hrun, hle, hcnt⟩ := runBytes_event_or_count s bs
  have hlt := t.cnt.isLt
  exact ⟨t, hrun, Nat.lt_of_le_of_ne hle fun heq => by have := hcnt heq.symm; omega⟩

/-! ### Runs -/

/-- Settles O11: every input is an operation. -/
theorem stepNeverStops : Obligations.StepNeverStops := step_total

theorem run_of_input_nil (n : Nat) {s : State} (h : s.input = []) :
    Host.Core.run Sys2Proof.core (n + 1) s = .next s.hold := by
  induction n generalizing s with
  | zero => exact run_succ 0 (step_nil h)
  | succ n ih =>
    rw [run_succ (n + 1) (step_nil h)]
    exact ih h

theorem run_noByteCycles {bs : List Byte} (hne : bs ≠ []) {s : State} {rest : List Input}
    (h : s.input = bs.map (fun b => Input.cycle false false b) ++ rest) :
    Host.Core.run Sys2Proof.core bs.length s = .next { s with input := rest }.hold := by
  induction bs generalizing s with
  | nil => exact absurd rfl hne
  | cons b bs ih =>
    rw [List.length_cons, run_succ bs.length (step_noByte h)]
    cases bs with
    | nil => rfl
    | cons c cs => exact ih (List.cons_ne_nil c cs) rfl

/-- Settles O9, by induction on the steps and on the cycles. -/
theorem nothingHappensWithoutAByte : Obligations.NothingHappensWithoutAByte := fun _ =>
  ⟨fun n h => run_of_input_nil n h, fun _ _ hne h => run_noByteCycles hne h⟩

end Sys2Proof.Machine

namespace Sys2Proof.Machine

/-! Proofs of the statements of 41_digit_decoder.md: the segment code, the look-up, which bits of a frame the
digits, the sign and the decimal points read, and the rows of the DigitTable. -/

/-! ### The segment code -/

/-- The concatenation is the source's shift and or, checked on all pairs of nibbles (41_digit_decoder R86). -/
theorem segCodeOf_eq_shiftLeft_or : ∀ byte1 byte2 : Nibble,
    segCodeOf byte1 byte2 = ((byte1 &&& 0x7#4).setWidth 7 <<< 4) ||| byte2.setWidth 7 := by decide

/-- A segment code reads bits 2:0 of `byte1` alone. -/
theorem segCodeOf_congr {byte1 byte1' byte2 byte2' : Nibble}
    (h1 : byte1.extractLsb' 0 3 = byte1'.extractLsb' 0 3) (h2 : byte2 = byte2') :
    segCodeOf byte1 byte2 = segCodeOf byte1' byte2' := by
  rw [segCodeOf, segCodeOf, h1, h2]

/-- Bit 3 of `byte1` stands outside the code: it is a sign or a decimal point. -/
theorem segCodeOf_flip_bit3 (byte1 byte2 : Nibble) :
    segCodeOf (byte1 ^^^ 0x8#4) byte2 = segCodeOf byte1 byte2 := by
  refine segCodeOf_congr ?_ rfl
  have h8 : (0x8#4).extractLsb' 0 3 = 0#3 := rfl
  rw [BitVec.extractLsb'_xor, h8, BitVec.xor_zero]

/-- Settles O35: the bits of `byte1` that enter the code are 2:0. -/
theorem segmentCodeFormula : Obligations.SegmentCodeFormula := fun lut _ _ byte1 byte2 =>
  ⟨segCodeOf_eq_shiftLeft_or byte1 byte2,
    by rw [segCodeOf, BitVec.extractLsb'_eq_self],
    segCodeOf_flip_bit3 byte1 byte2,
    congrArg (lookUp lut) (segCodeOf_flip_bit3 byte1 byte2),
    rfl, rfl⟩

/-! ### The look-up -/

/-- In a table with distinct codes a look-up finds exactly the entries (41_digit_decoder R87). -/
theorem lookUp_eq_glyph_iff {lut : DigitLut} (hs : (lut.map Prod.fst).Pairwise (· ≠ ·)) (c : SegCode)
    (g : Glyph) : lookUp lut c = .glyph g ↔ (c, g) ∈ lut :=
  ⟨mem_of_lookUp, lookUp_of_mem hs⟩

/-- A look-up that gives no symbol gives INVALID. -/
theorem lookUp_eq_invalid_iff {lut : DigitLut} (hs : (lut.map Prod.fst).Pairwise (· ≠ ·)) (c : SegCode) :
    lookUp lut c = .invalid ↔ ∀ g, (c, g) ∉ lut := by
  simp only [← lookUp_eq_glyph_iff hs]
  cases lookUp lut c <;> simp

theorem readingOf_seg (lut : DigitLut) (f : Frame) (k : Fin 4) :
    (readingOf lut f).seg[k] = segOf f k := by
  simp [readingOf]

/-- The mark of a digit is a function of its symbol. -/
theorem readingOf_inv (lut : DigitLut) (f : Frame) (k : Fin 4) :
    (readingOf lut f).inv[k] = ((readingOf lut f).sym[k] == .invalid) := by
  simp [readingOf, invOf]

/-- Settles O36, since an admissible table has distinct codes. -/
theorem lookUpFindsEntriesOnly : Obligations.LookUpFindsEntriesOnly := fun lut h =>
  ⟨lookUp_eq_glyph_iff h.codes_distinct, lookUp_eq_invalid_iff h.codes_distinct,
    fun f k => ⟨readingOf_sym lut f k, by rw [readingOf_inv, beq_iff_eq]⟩⟩

/-- The four entries the source fixes (41_digit_decoder R100 (c)). -/
theorem lutAdmissible.sourceEntries_subset {lut : DigitLut} (h : lutAdmissible lut) :
    [(0x7D#7, Glyph.digit 0), (0x05#7, .digit 1), (0x27#7, .digit 4), (0x15#7, .digit 7)] ⊆ lut := by
  obtain ⟨-, -, -, -, h0, h1, h4, h7⟩ := h
  simp [h0, h1, h4, h7]

/-- Settles O37, from the two entries every admissible table holds. -/
theorem sourceFixedCodes : Obligations.SourceFixedCodes := by
  intro lut h
  have h0 : lookUp lut 0x7D#7 = .glyph (.digit 0) :=
    lookUp_of_mem h.codes_distinct (h.sourceEntries_subset (by simp))
  have h1 : lookUp lut 0x05#7 = .glyph (.digit 1) :=
    lookUp_of_mem h.codes_distinct (h.sourceEntries_subset (by simp))
  exact ⟨rfl, h0, h0, rfl, h1, h1⟩

/-! ### What the digits, the sign and the decimal points read -/

theorem readingOf_dp (lut : DigitLut) (f : Frame) (g : Fin 3) :
    (readingOf lut f).dp[g] = f[2 * g.val + 3].getLsbD 3 := by
  simp [readingOf, dpOf]

/-- Settles O39: the symbol and its mark are functions of the segment code, the sign and the points are bits
of the frame. -/
theorem digitPartReadsOnlyItsBits : Obligations.DigitPartReadsOnlyItsBits := by
  intro lut f f'
  refine ⟨fun k hhigh hlow => ?_, fun hsign => hsign, fun g hdp => ?_⟩
  · have hseg : segOf f k = segOf f' k := segCodeOf_congr hhigh hlow
    have hsym : (readingOf lut f).sym[k] = (readingOf lut f').sym[k] := by
      rw [readingOf_sym, readingOf_sym, hseg]
    exact ⟨by rw [readingOf_seg, readingOf_seg, hseg], hsym,
      by rw [readingOf_inv, readingOf_inv, hsym]⟩
  · rw [readingOf_dp, readingOf_dp, hdp]

/-! ### The rows of the DigitTable -/

/-- Settles O41: the pairs of the statement are the SEGCODE rows of the opcode table. -/
theorem digitEntriesLookUpTheirCode : Obligations.DigitEntriesLookUpTheirCode := by
  intro s p hp
  have hrow : p.swap ∈ segCodeRows := List.mem_map_of_mem (f := Prod.swap) hp
  exact ⟨digitsShowing s.tableFrame p.2, exec_of_mem_segCodeRows hrow s,
    digitsShowing_eq_true_iff s.tableFrame p.2⟩

/-- Rows whose codes the table of the configuration has as entries present the glyphs of those entries. -/
theorem exec_eq_digitEntry_of_subset {s : State} {entries : List (Instr × SegCode × Glyph)}
    (hs : (s.cfg.digitLut.map Prod.fst).Pairwise (· ≠ ·))
    (hrows : entries.map (fun p => (p.2.1, p.1)) ⊆ segCodeRows)
    (hlut : entries.map Prod.snd ⊆ s.cfg.digitLut) :
    ∀ p ∈ entries, exec p.1 s = .next { s with
      out := .digitEntry p.2.1 (.glyph p.2.2) (digitsShowing s.tableFrame p.2.1) } := by
  intro p hp
  have hrow := hrows (List.mem_map_of_mem hp)
  have hglyph := lookUp_of_mem hs (hlut (List.mem_map_of_mem hp))
  exact (exec_eq_digitEntry_iff p.1 s _ _ _).mpr ⟨hrow, hglyph.symm, rfl⟩

/-- Settles O42: the 12 triples are entries of the default table, the four of any admissible one. -/
theorem defaultTableEntries : Obligations.DefaultTableEntries := by
  refine fun s => ⟨fun hdefault => ?_, fun hadm => ?_⟩
  · have hs : (s.cfg.digitLut.map Prod.fst).Pairwise (· ≠ ·) :=
      hdefault ▸ defaultLut_admissible.codes_distinct
    exact exec_eq_digitEntry_of_subset hs (by decide) (by rw [hdefault]; decide)
  · exact exec_eq_digitEntry_of_subset hadm.codes_distinct (by decide) hadm.sourceEntries_subset

/-! ### The step of a table word -/

/-- Settles O6: a table word is read alone whether or not it has a row, and a row does the same. -/
theorem stepRunsTheTableWord : Obligations.StepRunsTheTableWord := fun _ _ _ _ _ =>
  ⟨fun h =>
    ⟨fun _ hi => (step_segCode h).trans (exec_of_mem_segCodeRows (mem_of_decodeSegCode hi) _).symm,
      fun _ => step_segCode h⟩,
    fun h =>
    ⟨fun _ hi => (step_attrMask h).trans (exec_of_mem_attrMaskRows (mem_of_decodeAttrMask hi) _).symm,
      fun _ => step_attrMask h⟩⟩

end Sys2Proof.Machine

namespace Sys2Proof.Machine

/-! Proofs of the statements of 42_attribute_mapper.md: the lanes against the bits of their slots, the rows of
the AttributeTable, and the labels and names of the lanes. -/

/-! ### The lanes and the bits of their slots -/

/-- The lane of bit `laneBit n` of slot `laneSlot n` is `n`: slot 0 comes first, then slots 9 to 13. -/
theorem four_mul_laneSlot_add_laneBit : ∀ n : Fin 24,
    4 * ((laneSlot n).val - 8) + laneBit n = n.val := by decide

/-- The AttributeTable reads none of the slots 1 to 8. -/
theorem laneSlot_ne_digitSlot (n : Fin 24) {i : Nat} (h1 : 1 ≤ i) (h8 : i ≤ 8) : (laneSlot n).val ≠ i := by
  have houtside : ∀ n : Fin 24, (laneSlot n).val < 1 ∨ 8 < (laneSlot n).val := by decide
  have := houtside n
  omega

/-- The four bits of a slot the AttributeTable reads are four lanes. -/
theorem exists_lane_of_bit : ∀ (n : Fin 24) (j : Fin 4), ∃ k : Fin 24,
    laneSlot k = laneSlot n ∧ laneBit k = j.val := by decide

theorem laneBit_lt (n : Fin 24) : laneBit n < 4 := Nat.mod_lt _ (by decide)

/-- Two lanes are not the same bit of the same slot. -/
theorem lane_ext {n k : Fin 24} (hslot : laneSlot n = laneSlot k) (hbit : laneBit n = laneBit k) :
    n = k :=
  Fin.ext (by rw [← four_mul_laneSlot_add_laneBit n, ← four_mul_laneSlot_add_laneBit k, hslot, hbit])

theorem laneMask_getLsbD (n k : Fin 24) : (laneMask n).getLsbD k.val = decide (k = n) := by
  simp [laneMask, Fin.ext_iff, eq_comm]

/-- A mask is the `attr` of a frame when each lane is the bit of its slot. -/
theorem attrOf_eq_iff (f : Frame) (m : AttrMask) :
    attrOf f = m ↔ ∀ n : Fin 24, f[laneSlot n].getLsbD (laneBit n) = m.getLsbD n.val := by
  constructor
  · rintro rfl n
    exact (attrOf_getLsbD f n).symm
  · intro h
    refine BitVec.eq_of_getLsbD_eq fun i hi => ?_
    exact (attrOf_getLsbD f ⟨i, hi⟩).trans (h ⟨i, hi⟩)

/-- Two frames have the same `attr` exactly when they agree in the slots the AttributeTable reads. -/
theorem attrOf_eq_attrOf_iff (f f' : Frame) :
    attrOf f = attrOf f' ↔ ∀ n : Fin 24, f[laneSlot n] = f'[laneSlot n] := by
  simp only [attrOf_eq_iff, attrOf_getLsbD]
  constructor
  · intro h n
    refine BitVec.eq_of_getLsbD_eq fun j hj => ?_
    obtain ⟨k, hslot, hbit⟩ := exists_lane_of_bit n ⟨j, hj⟩
    simpa [hslot, hbit] using h k
  · intro h n
    rw [h n]

/-- Flipping the bit of a lane flips that lane alone. -/
theorem attrOf_flip_lane (f : Frame) (n : Fin 24) :
    attrOf (f.set (laneSlot n).val (f[laneSlot n] ^^^ BitVec.twoPow 4 (laneBit n))
      (laneSlot n).isLt) = attrOf f ^^^ laneMask n := by
  refine (attrOf_eq_iff _ _).mpr fun k => ?_
  rw [BitVec.getLsbD_xor, attrOf_getLsbD, laneMask_getLsbD, Fin.getElem_fin]
  by_cases hslot : laneSlot n = laneSlot k
  · have hbit : laneBit k = laneBit n ↔ k = n := ⟨lane_ext hslot.symm, congrArg laneBit⟩
    simp [hslot, laneBit_lt, hbit]
  · have hne : k ≠ n := fun h => hslot (congrArg laneSlot h.symm)
    rw [Vector.getElem_set_ne _ _ (Fin.val_ne_of_ne hslot)]
    simp [hne]

/-- The slots of the digits have no lane. -/
theorem attrOf_set_digitSlot (f : Frame) (i : Fin 14) (d : Nibble) (h1 : 1 ≤ i.val) (h8 : i.val ≤ 8) :
    attrOf (f.set i.val d i.isLt) = attrOf f :=
  (attrOf_eq_attrOf_iff _ _).mpr fun n =>
    Vector.getElem_set_ne _ _ (laneSlot_ne_digitSlot n h1 h8).symm

/-- A frame with the lanes of a mask; slots 1 to 8, which have no lane, repeat slot 0. -/
def frameOfMask (m : AttrMask) : Frame :=
  Vector.ofFn fun i => m.extractLsb' (4 * (i.val - 8)) 4

theorem attrOf_frameOfMask (m : AttrMask) : attrOf (frameOfMask m) = m := by
  refine (attrOf_eq_iff _ _).mpr fun n => ?_
  simp [frameOfMask, laneBit_lt, four_mul_laneSlot_add_laneBit]

/-! ### The digits, the sign and the points against the lanes -/

/-- All of a Reading but `attr` is read from slots 1 to 8. -/
theorem readingOf_eq_of_digitSlots (lut : DigitLut) {f f' : Frame}
    (h : ∀ i (hi : i < 14), 1 ≤ i → i ≤ 8 → f[i] = f'[i]) :
    readingOf lut f = { readingOf lut f' with attr := attrOf f } := by
  have hhigh : pairHigh f = pairHigh f' := funext fun k => h _ _ (by omega) (by omega)
  have hlow : pairLow f = pairLow f' := funext fun k => h _ _ (by omega) (by omega)
  have hsym : symOf lut f = symOf lut f' := by
    funext k
    rw [symOf, symOf, hhigh, hlow]
  have hseg : segOf f = segOf f' := by
    funext k
    rw [segOf, segOf, hhigh, hlow]
  have hinv : invOf lut f = invOf lut f' := by
    funext k
    rw [invOf, invOf, hsym]
  have hsign : signOf f = signOf f' := congrArg (·.getLsbD 3) (h 1 _ (by decide) (by decide))
  have hdp : dpOf f = dpOf f' := funext fun g => congrArg (·.getLsbD 3) (h _ _ (by omega) (by omega))
  simp only [readingOf, anyInvalidOf, hsym, hseg, hinv, hsign, hdp]

/-- A slot the AttributeTable reads has an influence on `attr` alone. -/
theorem readingOf_set_laneSlot (lut : DigitLut) (f : Frame) (n : Fin 24) (d : Nibble) :
    readingOf lut (f.set (laneSlot n).val d (laneSlot n).isLt) =
      { readingOf lut f with attr := attrOf (f.set (laneSlot n).val d (laneSlot n).isLt) } :=
  readingOf_eq_of_digitSlots lut fun _ _ h1 h8 =>
    Vector.getElem_set_ne _ _ (laneSlot_ne_digitSlot n h1 h8)

/-- Settles O40: `attr` is each lane's bit, and a slot has lanes or is read by the digit part, not both. -/
theorem attributeBitsAreABijection : Obligations.AttributeBitsAreABijection := by
  refine ⟨attrOf_flip_lane, attrOf_set_digitSlot, fun lut f n d => ?_,
    fun m => ⟨frameOfMask m, attrOf_frameOfMask m⟩, fun f f' => (attrOf_eq_attrOf_iff f f').mp⟩
  rw [readingOf_set_laneSlot]
  exact ⟨rfl, rfl, rfl, rfl, rfl, rfl⟩

/-! ### The rows of the AttributeTable -/

/-- The row of a lane presents the bit of the lane's slot. -/
theorem exec_of_laneMask_mem {n : Fin 24} {i : Instr} (h : (laneMask n, i) ∈ attrMaskRows) (s : State) :
    exec i s = .next { s with
      out := .lanes (laneMask n)
        (if s.tableFrame[laneSlot n].getLsbD (laneBit n) then laneMask n else 0#24) } := by
  refine (exec_eq_lanes_iff i s _ _).mpr ⟨h, ?_⟩
  rw [laneMask, BitVec.and_twoPow, attrOf_getLsbD]

/-- Rows whose instruction, slot and bit are those of a lane present that bit. -/
theorem exec_eq_lanes_of_forall_lane {rows : List (Instr × Nat × Fin 14 × Nat)}
    (hrows : ∀ p ∈ rows, ∃ n : Fin 24,
      (laneMask n, p.1) ∈ attrMaskRows ∧ p.2 = (n.val, laneSlot n, laneBit n)) (s : State) :
    ∀ p ∈ rows, exec p.1 s = .next { s with
      out := .lanes (BitVec.twoPow 24 p.2.1)
        (if s.tableFrame[p.2.2.1].getLsbD p.2.2.2 then BitVec.twoPow 24 p.2.1 else 0#24) } := by
  rintro ⟨i, _⟩ hp
  obtain ⟨n, hrow, rfl⟩ := hrows _ hp
  exact exec_of_laneMask_mem hrow s

/-- Settles O43: the rows of the statement are the ATTR24 rows of the opcode table, lane by lane. -/
theorem attributeLanesCopyTheirBit : Obligations.AttributeLanesCopyTheirBit := fun s =>
  exec_eq_lanes_of_forall_lane (by decide) s

/-! ### The labels and the names -/

theorem dataOf_laneLabel (n : Fin 24) : dataOf (laneLabel n) = BitVec.twoPow 4 (laneBit n) :=
  dataOf_byteOf _ _

theorem tagOf_laneLabel (n : Fin 24) : (tagOf (laneLabel n)).toNat = (laneSlot n).val + 1 := by
  have htag : tagOf (laneLabel n) = BitVec.ofNat 4 ((laneSlot n).val + 1) := tagOf_byteOf _ _
  rw [htag, BitVec.toNat_ofNat, Nat.mod_eq_of_lt (by omega)]

/-- The frame with only a lane's bit has only that lane: it is the clean frame with the bit flipped. -/
theorem attrOf_zero_set_lane (n : Fin 24) :
    attrOf (Frame.zero.set (laneSlot n).val (BitVec.twoPow 4 (laneBit n)) (laneSlot n).isLt) =
      laneMask n := by
  have hzero : attrOf Frame.zero = 0#24 := by decide
  have hslot : Frame.zero[laneSlot n] = 0#4 := Vector.getElem_replicate _
  have hflip := attrOf_flip_lane Frame.zero n
  rwa [hslot, BitVec.zero_xor, hzero, BitVec.zero_xor] at hflip

/-- The mask of one lane has one name. -/
theorem namesOf_laneMask (n : Fin 24) : namesOf (laneMask n) = [laneName n] := by
  have hfilter : (List.finRange 24).filter (fun k => (laneMask n).getLsbD k.val) = [n] := by
    simp only [laneMask_getLsbD, List.filter_eq, List.count_finRange, List.replicate_one]
  rw [namesOf, hfilter, List.map_singleton]

theorem laneOf_laneName : ∀ n : Fin 24, laneOf (laneName n) = n := by decide

/-- Settles O45, from the label's two nibbles; a name is that of one lane because `laneOf` gives the lane back. -/
theorem laneLabelsAndNames : Obligations.LaneLabelsAndNames := fun n =>
  ⟨tagOf_laneLabel n, dataOf_laneLabel n, by rw [dataOf_laneLabel, attrOf_zero_set_lane],
    namesOf_laneMask n, laneOf_laneName n⟩

end Sys2Proof.Machine

namespace Sys2Proof.Machine

/-! Proofs of the statements of 43_reading_assembly.md: what a step delivers and the trace it leaves, the Reading of
a frame, the step of a placed table word, and the ports with a payload. -/

/-! ### What a step delivers -/

/-- What the step from `s` to `t` delivers: the event it presents, a right one, with the index of the byte it
takes, or nothing (43_reading_assembly R136, R137). -/
def Delivers (s t : State) : Prop :=
  (∃ e : Event, e.Faithful s.cfg.digitLut ∧ t.out = .event e ∧ t.taken = s.taken + 1 ∧
    t.trace = s.trace ++ [(t.taken, e)]) ∨
  ((∀ e : Event, t.out ≠ .event e) ∧ t.trace = s.trace)

theorem delivers_afterEvent {e : Event} (s : State) (he : e.Faithful s.cfg.digitLut) :
    Delivers s (s.takeByte.afterEvent e) := .inl ⟨e, he, rfl, rfl, rfl⟩

theorem StepOp.delivers {inp : Option Input} {op : State → State} (h : StepOp inp op) (s : State) :
    Delivers s (op s) := by
  cases h with
  | nothing | reset | noByte | entry | lanes => exact .inr ⟨nofun, rfl⟩
  | powerOn | invalidTag => exact delivers_afterEvent s trivial
  | store b i =>
    beta_reduce
    obtain ⟨-, ht⟩ | ⟨-, ht⟩ := acceptByte_cases i (dataOf b) s.takeByte
    · exact ht ▸ .inr ⟨nofun, rfl⟩
    · exact ht ▸ delivers_afterEvent s trivial
  | terminal b =>
    beta_reduce
    obtain ⟨e, he, ht⟩ := acceptTerminal_cases (dataOf b) s.takeByte
    exact ht ▸ delivers_afterEvent s he

theorem step_delivers {s t : State} (h : step s = .next t) : Delivers s t := by
  obtain ⟨op, hop, hstep⟩ := exists_stepOp s.input
  cases h.symm.trans (hstep s rfl)
  exact (hop.delivers { s with input := s.input.tail } :)

/-- Settles O26, from what a step delivers. -/
theorem traceRecordsTheEventOfEachStep : Obligations.TraceRecordsTheEventOfEachStep := fun _ _ h =>
  (step_delivers h).imp_left fun ⟨e, _, hdelivered⟩ => ⟨e, hdelivered⟩

/-! ### The trace invariant -/

theorem step_cfg {s t : State} (h : step s = .next t) : t.cfg = s.cfg :=
  (stepConsumesInputAndKeepsTheParameters s t h).1

/-- The count of bytes never falls. -/
theorem step_taken_le {s t : State} (h : step s = .next t) : s.taken ≤ t.taken := by
  obtain ⟨-, -, htaken⟩ := stepConsumesInputAndKeepsTheParameters s t h
  split at htaken <;> omega

/-- With nothing delivered the trace stays one while bytes are taken. -/
theorem traceInv_of_trace_eq {s t : State} (h : TraceInv s) (hcfg : t.cfg = s.cfg)
    (htaken : s.taken ≤ t.taken) (htrace : t.trace = s.trace) : TraceInv t := by
  obtain ⟨hrise, hbound, hfaithful⟩ := h
  rw [TraceInv, htrace, hcfg]
  exact ⟨hrise, fun p hp => ⟨(hbound p hp).1, (hbound p hp).2.trans htaken⟩, hfaithful⟩

/-- A right event delivered with the index of a new byte comes after all indices in the trace. -/
theorem traceInv_of_trace_concat {s t : State} {e : Event} (h : TraceInv s) (hcfg : t.cfg = s.cfg)
    (htaken : s.taken < t.taken) (he : e.Faithful s.cfg.digitLut)
    (htrace : t.trace = s.trace ++ [(t.taken, e)]) : TraceInv t := by
  obtain ⟨hrise, hbound, hfaithful⟩ := h
  rw [TraceInv, htrace, hcfg, List.map_append, List.pairwise_append]
  refine ⟨⟨hrise, List.pairwise_singleton _ _, ?_⟩, ?_, ?_⟩
  · intro a ha b hb
    obtain ⟨p, hp, rfl⟩ := List.mem_map.mp ha
    obtain rfl := List.mem_singleton.mp hb
    exact (hbound p hp).2.trans_lt htaken
  · refine List.forall_mem_append.mpr ⟨fun p hp => ?_, List.forall_mem_singleton.mpr ?_⟩
    · exact ⟨(hbound p hp).1, (hbound p hp).2.trans htaken.le⟩
    · exact ⟨Nat.one_le_of_lt htaken, le_rfl⟩
  · exact List.forall_mem_append.mpr ⟨hfaithful, List.forall_mem_singleton.mpr he⟩

/-- Settles O24: a step delivers one right event with the index of a new byte, or nothing. -/
theorem stepKeepsTheTraceInvariant : Obligations.StepKeepsTheTraceInvariant := by
  intro s t hinv hstep
  obtain ⟨e, he, -, htaken, htrace⟩ | ⟨-, htrace⟩ := step_delivers hstep
  · exact traceInv_of_trace_concat hinv (step_cfg hstep) (by omega) he htrace
  · exact traceInv_of_trace_eq hinv (step_cfg hstep) (step_taken_le hstep) htrace

/-! ### The Reading, field by field -/

/-- `any_invalid` says that some digit is marked. -/
theorem readingOf_anyInvalid_iff (lut : DigitLut) (f : Frame) :
    (readingOf lut f).anyInvalid = true ↔ ∃ k : Fin 4, (readingOf lut f).inv[k] = true := by
  simp [readingOf, anyInvalidOf, Fin.exists_fin_succ, or_assoc]

theorem laneSlot_val (n : Fin 24) :
    (laneSlot n).val = if n.val < 4 then 0 else n.val / 4 + 8 := by
  unfold laneSlot
  split <;> rfl

/-- Settles O34: `sym` and `inv` follow `seg`, the sign, the points and the lanes are bits of the frame. -/
theorem readingIsDecode : Obligations.ReadingIsDecode := by
  intro lut f
  refine ⟨fun k => ⟨readingOf_seg lut f k, ?_, ?_⟩, readingOf_anyInvalid_iff lut f, rfl,
    readingOf_dp lut f, fun n => ⟨laneSlot_val n, attrOf_getLsbD f n⟩⟩
  · rw [readingOf_sym, readingOf_seg]
  · rw [readingOf_inv, beq_iff_eq]

/-! ### The step of a placed table word -/

/-- A numbered table word decodes as the word it stands for. -/
theorem decodeTableWord_eq_some_iff {nbits w : Nat} {i : Instr} :
    decodeTableWord nbits w = some i ↔ ∃ word, wordOf nbits w = some word ∧ decode word = some i := by
  unfold decodeTableWord
  cases wordOf nbits w <;> simp

theorem withFetchWord_of_wordOf {nbits w : Nat} {word : Word} (h : wordOf nbits w = some word)
    (s : State) :
    s.withFetchWord nbits w = { s with input := inputOf s.tableFrame word :: s.input } := by
  rw [State.withFetchWord, placeWord, h]

/-- A presented word runs its instruction on the state as it was, with the byte, if it is one, counted. -/
theorem step_inputOf {word : Word} {i : Instr} (h : decode word = some i) (s : State) :
    step { s with input := inputOf s.tableFrame word :: s.input } =
      exec i (if i.isByteClass then { s with taken := s.taken + 1 } else s) := by
  cases word with
  | byte b =>
    cases h
    rw [if_pos (decodeByte_isByteClass b)]
    exact step_presented rfl
  | segCode c =>
    have hrow : (c, i) ∈ segCodeRows := mem_of_decodeSegCode h
    rw [segCodeRows_isByteClass _ hrow, exec_of_mem_segCodeRows hrow]
    exact step_segCode rfl
  | attrMask m =>
    have hrow : (m, i) ∈ attrMaskRows := mem_of_decodeAttrMask h
    rw [attrMaskRows_isByteClass _ hrow, exec_of_mem_attrMaskRows hrow]
    exact step_attrMask rfl

/-- Settles O7: the placed word is the earliest input. -/
theorem withFetchWordRunsTheInstruction : Obligations.WithFetchWordRunsTheInstruction := by
  intro s nbits w i h
  obtain ⟨word, hword, hdecode⟩ := decodeTableWord_eq_some_iff.mp h
  rw [withFetchWord_of_wordOf hword]
  exact step_inputOf hdecode s

/-! ### The ports with a payload -/

/-- The code 1 is that of `CompleteFrame` alone (30_encoding R42). -/
theorem evCode_eq_one_iff (o : Output) :
    o.evCode = 1#3 ↔ ∃ (f : Frame) (r : Reading), o = .event (.completeFrame f r) := by
  match o with
  | .event (.completeFrame f r) => exact iff_of_true rfl ⟨f, r, rfl⟩
  | .event (.framingError y) =>
    exact iff_of_false (by cases y <;> simp [Output.evCode, Event.code]) (by simp)
  | .event .powerOn | .idle | .digitEntry _ _ _ | .lanes _ _ =>
    exact iff_of_false (by simp [Output.evCode, Event.code]) (by simp)

/-- Only a `CompleteFrame` has a payload (43_reading_assembly R143). -/
theorem payload_eq_none {o : Output} (h : o.evCode ≠ 1#3) : o.payload = none := by
  match o with
  | .event (.completeFrame _ _) => exact absurd rfl h
  | .event (.framingError _) | .event .powerOn | .idle | .digitEntry _ _ _ | .lanes _ _ => rfl

/-- Settles O48: every payload port is a function of the payload. -/
theorem payloadOnlyWithCompleteFrame : Obligations.PayloadOnlyWithCompleteFrame := by
  refine fun o => ⟨evCode_eq_one_iff o, fun h => ?_, fun h => ?_⟩
  · obtain ⟨f, r, rfl⟩ := (evCode_eq_one_iff o).mp h
    exact ⟨rfl, rfl, rfl, rfl, rfl, rfl, rfl, rfl⟩
  · simp [Output.frameO, Output.symO, Output.segO, Output.invO, Output.anyInvalidO, Output.signO,
      Output.dpO, Output.attrO, payload_eq_none h]

end Sys2Proof.Machine

namespace Sys2Proof.Machine

/-! Proof of the statement of 60_exceptions.md: what an event leaves behind. -/

/-- A meaning that presents an event has taken it: of the three things a meaning can do, storing a nibble
presents nothing and reading a table alone presents no event (60_exceptions R154). -/
theorem ExecResult.eq_afterEvent {s t : State} {e : Event} (hr : ExecResult s t)
    (hout : t.out = .event e) : t = s.afterEvent e := by
  obtain ⟨e', -, rfl⟩ | ⟨i, d, -, -, rfl⟩ | ⟨o, ho, rfl⟩ := hr
  · rw [afterEvent_out, Output.event.injEq] at hout
    rw [hout]
  · cases hout
  · exact absurd hout (ho e)

/-- Settles O21: the only meaning that presents an event is that of taking it. -/
theorem everyEventLeavesClean : Obligations.EveryEventLeavesClean := by
  intro i s t e hexec hout
  obtain ⟨t', hexec', hr⟩ := exec_result i s
  cases hexec.symm.trans hexec'
  exact hr.eq_afterEvent hout

end Sys2Proof.Machine

namespace Sys2Proof.Machine

/-! Proof of the statement of 70_reset_and_hazards.md: a cycle with `rst = 1`. -/

/-- Settles O8: reset wins over the byte and leaves the cleaned state held, and holding presents no
event (70_reset R161). -/
theorem resetCycleGivesClean : Obligations.ResetCycleGivesClean := fun _ _ _ _ h =>
  ⟨step_reset h, rfl⟩

end Sys2Proof.Machine
